-- ==== Sys2Proof/Word.lean ====
section
/-! DEFINITION. The word types of the machine (00 R11 `XLEN`, `ALEN`, `ACCLEN`; 30 R171). -/

namespace Sys2Proof

/-- A data, pointer or address register (00 R11: `XLEN = ALEN = 32` in `Prov`). -/
abbrev Word := BitVec 32

/-- An instruction parcel (30 R171). -/
abbrev Parcel := BitVec 16

/-- A byte of memory (20 R130). -/
abbrev Byte := BitVec 8

/-- An accumulator (10 R63: 40 bits). -/
abbrev Acc := BitVec 40

end Sys2Proof
end

