-- ==== Sys2Proof/Config.lean ====
section
/-! DEFINITION. What `Prov` fixes for the machine, and the values the spec leaves free. -/

namespace Sys2Proof

/-- The `n`-th `draw(32)` (00 R21): a value no rule fixes. It has no body, so a proof that speaks of it
holds for every value. Log entry 5. -/
opaque Config.freeWord : Nat → Word

/-- `RESET_VECTOR` (70 R504): where the boot ROM hands over to the loaded program. -/
def Config.resetVector : Word := 0xFFA00000#32

/-- `SDRAM_SIZE` (20 R135): the size the reset state assumes, the region's largest. DESIGN CHOICE, unsafe, log entry 8. -/
def Config.sdramSize : Nat := 0x08000000

/-- The line size that the post-incrementing cache-control forms add (43 section B.7). -/
def Config.cacheLine : Word := 32#32

end Sys2Proof
end

