-- ==== Sys2Proof/Syntax.lean ====
section
/-! DEFINITION. The registers an instruction can name (10 R73) and the instructions: one constructor for each row of
spec/opcode_table.json, in the table's order. Each docstring gives the assembler form and the rule of its meaning. -/

namespace Sys2Proof

/-- A data register (10 R60; group 0 of 10 R73). -/
inductive DReg where
  | r0 | r1 | r2 | r3 | r4 | r5 | r6 | r7
  deriving DecidableEq, Repr

/-- A pointer register (10 R61; group 1 of 10 R73). `sp` is the stack pointer the mode binds (10 R69). -/
inductive PReg where
  | p0 | p1 | p2 | p3 | p4 | p5 | sp | fp
  deriving DecidableEq, Repr

/-- The number of a register within one of the four sets I, M, B, L (10 R62). -/
inductive Quad where
  | n0 | n1 | n2 | n3
  deriving DecidableEq, Repr

/-- The number of a hardware loop (10 R67). -/
inductive LoopNo where
  | k0 | k1
  deriving DecidableEq, Repr

/-- A data or a pointer register: the operands of the conditional moves (41 R264). -/
inductive DPReg where
  | d (r : DReg)
  | p (r : PReg)
  deriving DecidableEq, Repr

/-- A register of the groups 0 to 3 of 10 R73. -/
inductive GenReg where
  | d (r : DReg)
  | p (r : PReg)
  | i (n : Quad)
  | m (n : Quad)
  | b (n : Quad)
  | l (n : Quad)
  deriving DecidableEq, Repr

/-- Any register of the table of 10 R73; its reserved slots have no constructor. -/
inductive Reg where
  | gen (g : GenReg)
  | a0x | a0w | a1x | a1w | astat | rets
  | lc (k : LoopNo) | lt (k : LoopNo) | lb (k : LoopNo)
  | cycles | cycles2
  | usp | seqstat | syscfg | reti | retx | retn | rete | emudat
  deriving DecidableEq, Repr

/-- The ASTAT bits that move to and from CC (41 R275). -/
inductive AstatBit where
  | az | an | aq | ac0 | ac1 | av0 | av0s | av1 | av1s | v | vs
  deriving DecidableEq, Repr

/-- The instructions. -/
inductive Instr where
  -- format ProgCtrl (30 R176)
  /-- `NOP` (42 R348) -/
  | nop
  /-- `RTS` (42 R313) -/
  | rts
  /-- `RTI` (42 R335) -/
  | rti
  /-- `RTX` (42 R336) -/
  | rtx
  /-- `RTN` (42 R337) -/
  | rtn
  /-- `RTE` (42 R338) -/
  | rte
  /-- `IDLE` (42 R346) -/
  | idle
  /-- `CSYNC` (42 R344) -/
  | csync
  /-- `SSYNC` (42 R345) -/
  | ssync
  /-- `EMUEXCPT` (42 R347) -/
  | emuexcpt
  /-- `CLI Rd` (42 R342) -/
  | cli (rd : DReg)
  /-- `STI Rd` (42 R343) -/
  | sti (rd : DReg)
  /-- `JUMP (Pn)` (42 R304) -/
  | jumpReg (pn : PReg)
  /-- `CALL (Pn)` (42 R311) -/
  | callReg (pn : PReg)
  /-- `CALL (PC + Pn)` (42 R312) -/
  | callPcReg (pn : PReg)
  /-- `JUMP (PC + Pn)` (42 R306) -/
  | jumpPcReg (pn : PReg)
  /-- `RAISE uimm4` (42 R340) -/
  | raise (n : BitVec 4)
  /-- `EXCPT uimm4` (42 R341) -/
  | excpt (n : BitVec 4)
  /-- `TESTSET (Pn)` (42 R349) -/
  | testset (pn : PReg)
  -- format PushPopReg (30 R178)
  /-- `reg = [SP++]` (43 R381) -/
  | popReg (reg : Reg)
  /-- `[--SP] = reg` (43 R380) -/
  | pushReg (reg : Reg)
  -- format CC2dreg (30 R182)
  /-- `Rd = CC` (41 R283) -/
  | ccToD (rd : DReg)
  /-- `CC = Rs` (41 R284) -/
  | dToCc (rs : DReg)
  /-- `CC = !CC` (41 R285) -/
  | notCc
  -- format CaCTRL (30 R177)
  /-- `PREFETCH [Pp] / PREFETCH [Pp++]` (43 R410) -/
  | prefetch (post : Bool) (pp : PReg)
  /-- `FLUSHINV [Pp] / FLUSHINV [Pp++]` (43 R411) -/
  | flushinv (post : Bool) (pp : PReg)
  /-- `FLUSH [Pp] / FLUSH [Pp++]` (43 R412) -/
  | flush (post : Bool) (pp : PReg)
  /-- `IFLUSH [Pp] / IFLUSH [Pp++]` (43 R413) -/
  | iflush (post : Bool) (pp : PReg)
  -- format CC2stat (30 R183)
  /-- `CC = bit` (41 R275) -/
  | ccSetBit (bit : AstatBit)
  /-- `CC |= bit` (41 R275) -/
  | ccOrBit (bit : AstatBit)
  /-- `CC &= bit` (41 R275) -/
  | ccAndBit (bit : AstatBit)
  /-- `CC ^= bit` (41 R275) -/
  | ccXorBit (bit : AstatBit)
  /-- `bit = CC` (41 R275) -/
  | bitSetCc (bit : AstatBit)
  /-- `bit |= CC` (41 R275) -/
  | bitOrCc (bit : AstatBit)
  /-- `bit &= CC` (41 R275) -/
  | bitAndCc (bit : AstatBit)
  /-- `bit ^= CC` (41 R275) -/
  | bitXorCc (bit : AstatBit)
  -- format PushPopMultiple (30 R179)
  /-- `(R7:dr, P5:pr) = [SP++]` (43 R385) -/
  | popMultDP (dr : DReg) (pr : PReg)
  /-- `(R7:dr) = [SP++]` (43 R385) -/
  | popMultD (dr : DReg)
  /-- `(P5:pr) = [SP++]` (43 R385) -/
  | popMultP (pr : PReg)
  /-- `[--SP] = (R7:dr, P5:pr)` (43 R384) -/
  | pushMultDP (dr : DReg) (pr : PReg)
  /-- `[--SP] = (R7:dr)` (43 R384) -/
  | pushMultD (dr : DReg)
  /-- `[--SP] = (P5:pr)` (43 R384) -/
  | pushMultP (pr : PReg)
  -- format ccMV (30 R180)
  /-- `IF !CC dst = src` (41 R264) -/
  | movIfNotCc (dst src : DPReg)
  /-- `IF CC dst = src` (41 R264) -/
  | movIfCc (dst src : DPReg)
  -- format CCflag (30 R181)
  /-- `CC = Rx == Ry` (41 R276) -/
  | cmpEqD (rx ry : DReg)
  /-- `CC = Rx == imm3` (41 R276) -/
  | cmpEqDImm (rx : DReg) (imm : BitVec 3)
  /-- `CC = Px == Py` (41 R281) -/
  | cmpEqP (px py : PReg)
  /-- `CC = Px == imm3` (41 R281) -/
  | cmpEqPImm (px : PReg) (imm : BitVec 3)
  /-- `CC = Rx < Ry` (41 R277) -/
  | cmpLtD (rx ry : DReg)
  /-- `CC = Rx < imm3` (41 R277) -/
  | cmpLtDImm (rx : DReg) (imm : BitVec 3)
  /-- `CC = Px < Py` (41 R281) -/
  | cmpLtP (px py : PReg)
  /-- `CC = Px < imm3` (41 R281) -/
  | cmpLtPImm (px : PReg) (imm : BitVec 3)
  /-- `CC = Rx <= Ry` (41 R278) -/
  | cmpLeD (rx ry : DReg)
  /-- `CC = Rx <= imm3` (41 R278) -/
  | cmpLeDImm (rx : DReg) (imm : BitVec 3)
  /-- `CC = Px <= Py` (41 R281) -/
  | cmpLeP (px py : PReg)
  /-- `CC = Px <= imm3` (41 R281) -/
  | cmpLePImm (px : PReg) (imm : BitVec 3)
  /-- `CC = Rx < Ry (IU)` (41 R279) -/
  | cmpLtuD (rx ry : DReg)
  /-- `CC = Rx < uimm3 (IU)` (41 R279) -/
  | cmpLtuDImm (rx : DReg) (imm : BitVec 3)
  /-- `CC = Px < Py (IU)` (41 R281) -/
  | cmpLtuP (px py : PReg)
  /-- `CC = Px < uimm3 (IU)` (41 R281) -/
  | cmpLtuPImm (px : PReg) (imm : BitVec 3)
  /-- `CC = Rx <= Ry (IU)` (41 R280) -/
  | cmpLeuD (rx ry : DReg)
  /-- `CC = Rx <= uimm3 (IU)` (41 R280) -/
  | cmpLeuDImm (rx : DReg) (imm : BitVec 3)
  /-- `CC = Px <= Py (IU)` (41 R281) -/
  | cmpLeuP (px py : PReg)
  /-- `CC = Px <= uimm3 (IU)` (41 R281) -/
  | cmpLeuPImm (px : PReg) (imm : BitVec 3)
  /-- `CC = A0 == A1` (41 R282) -/
  | cmpEqAcc
  /-- `CC = A0 < A1` (41 R282) -/
  | cmpLtAcc
  /-- `CC = A0 <= A1` (41 R282) -/
  | cmpLeAcc
  -- format BRCC (30 R184)
  /-- `IF !CC JUMP label [(bp)]` (42 R305) -/
  | jumpIfNotCc (bp : Bool) (offset : BitVec 10)
  /-- `IF CC JUMP label [(bp)]` (42 R305) -/
  | jumpIfCc (bp : Bool) (offset : BitVec 10)
  -- format UJUMP (30 R185)
  /-- `JUMP.S label` (42 R302) -/
  | jumpShort (offset : BitVec 12)
  -- format REGMV (30 R186)
  /-- `dst = src` (41 R260) -/
  | regMove (dst src : Reg)
  -- format ALU2op (30 R187)
  /-- `Rd >>>= Rs` (41 R242) -/
  | asrD (rd rs : DReg)
  /-- `Rd >>= Rs` (41 R243) -/
  | lsrD (rd rs : DReg)
  /-- `Rd <<= Rs` (41 R244) -/
  | lslD (rd rs : DReg)
  /-- `Rd *= Rs` (41 R245) -/
  | mulD (rd rs : DReg)
  /-- `Rd = Rs.L (X)` (41 R246) -/
  | sextHalf (rd rs : DReg)
  /-- `Rd = Rs.L (Z)` (41 R247) -/
  | zextHalf (rd rs : DReg)
  /-- `Rd = Rs.B (X)` (41 R248) -/
  | sextByte (rd rs : DReg)
  /-- `Rd = Rs.B (Z)` (41 R249) -/
  | zextByte (rd rs : DReg)
  /-- `Rd = -Rs` (41 R250) -/
  | negD (rd rs : DReg)
  /-- `Rd = ~Rs` (41 R251) -/
  | notD (rd rs : DReg)
  -- format PTR2op (30 R188)
  /-- `Pd -= Ps` (41 R265) -/
  | subP (pd ps : PReg)
  /-- `Pd = Ps << 2` (41 R266) -/
  | shl2P (pd ps : PReg)
  /-- `Pd = Ps >> 2` (41 R267) -/
  | shr2P (pd ps : PReg)
  /-- `Pd = Ps >> 1` (41 R268) -/
  | shr1P (pd ps : PReg)
  /-- `Pd = (Pd + Ps) << 1` (41 R269) -/
  | sumShl1P (pd ps : PReg)
  /-- `Pd = (Pd + Ps) << 2` (41 R270) -/
  | sumShl2P (pd ps : PReg)
  -- format LOGI2op (30 R189)
  /-- `CC = !BITTST (Rd, uimm5)` (41 R256) -/
  | bittstNot (rd : DReg) (imm : BitVec 5)
  /-- `CC = BITTST (Rd, uimm5)` (41 R255) -/
  | bittst (rd : DReg) (imm : BitVec 5)
  /-- `BITSET (Rd, uimm5)` (41 R257) -/
  | bitset (rd : DReg) (imm : BitVec 5)
  /-- `BITTGL (Rd, uimm5)` (41 R259) -/
  | bittgl (rd : DReg) (imm : BitVec 5)
  /-- `BITCLR (Rd, uimm5)` (41 R258) -/
  | bitclr (rd : DReg) (imm : BitVec 5)
  /-- `Rd >>>= uimm5` (41 R252) -/
  | asrImm (rd : DReg) (imm : BitVec 5)
  /-- `Rd >>= uimm5` (41 R253) -/
  | lsrImm (rd : DReg) (imm : BitVec 5)
  /-- `Rd <<= uimm5` (41 R254) -/
  | lslImm (rd : DReg) (imm : BitVec 5)
  -- format COMP3op (30 R190)
  /-- `Rd = Rs0 + Rs1` (41 R230) -/
  | addD (rd rs0 rs1 : DReg)
  /-- `Rd = Rs0 - Rs1` (41 R231) -/
  | subD (rd rs0 rs1 : DReg)
  /-- `Rd = Rs0 & Rs1` (41 R232) -/
  | andD (rd rs0 rs1 : DReg)
  /-- `Rd = Rs0 | Rs1` (41 R233) -/
  | orD (rd rs0 rs1 : DReg)
  /-- `Rd = Rs0 ^ Rs1` (41 R234) -/
  | xorD (rd rs0 rs1 : DReg)
  /-- `Pd = Ps0 + Ps1` (41 R235) -/
  | addP (pd ps0 ps1 : PReg)
  /-- `Pd = Ps0 + (Ps1 << 1)` (41 R236) -/
  | addPShl1 (pd ps0 ps1 : PReg)
  /-- `Pd = Ps0 + (Ps1 << 2)` (41 R237) -/
  | addPShl2 (pd ps0 ps1 : PReg)
  -- format COMPI2opD (30 R191)
  /-- `Rd = imm7 (X)` (41 R238) -/
  | movImmD (rd : DReg) (imm : BitVec 7)
  /-- `Rd += imm7` (41 R239) -/
  | addImmD (rd : DReg) (imm : BitVec 7)
  -- format COMPI2opP (30 R192)
  /-- `Pd = imm7 (X)` (41 R240) -/
  | movImmP (pd : PReg) (imm : BitVec 7)
  /-- `Pd += imm7` (41 R241) -/
  | addImmP (pd : PReg) (imm : BitVec 7)
  -- format LDSTpmod (30 R193)
  /-- `Rr = [Pp ++ Pi]` (43 R376) -/
  | ldPmod (rr : DReg) (pp pi : PReg)
  /-- `Rr.L = W[Pp ++ Pi]` (43 R376) -/
  | ldPmodLo (rr : DReg) (pp pi : PReg)
  /-- `Rr.H = W[Pp ++ Pi]` (43 R376) -/
  | ldPmodHi (rr : DReg) (pp pi : PReg)
  /-- `Rr = W[Pp ++ Pi] (Z)` (43 R376) -/
  | ldPmodHalfZ (rr : DReg) (pp pi : PReg)
  /-- `[Pp ++ Pi] = Rr` (43 R376) -/
  | stPmod (rr : DReg) (pp pi : PReg)
  /-- `W[Pp ++ Pi] = Rr.L` (43 R376) -/
  | stPmodLo (rr : DReg) (pp pi : PReg)
  /-- `W[Pp ++ Pi] = Rr.H` (43 R376) -/
  | stPmodHi (rr : DReg) (pp pi : PReg)
  /-- `Rr = W[Pp ++ Pi] (X)` (43 R376) -/
  | ldPmodHalfX (rr : DReg) (pp pi : PReg)
  -- format LDST (30 R197)
  /-- `Rr = [Pp++]` (43 R362) -/
  | ldDInc (rr : DReg) (pp : PReg)
  /-- `Pr = [Pp++]` (43 R363) -/
  | ldPInc (pr pp : PReg)
  /-- `Rr = W[Pp++] (Z)` (43 R364) -/
  | ldHalfZInc (rr : DReg) (pp : PReg)
  /-- `Rr = W[Pp++] (X)` (43 R364) -/
  | ldHalfXInc (rr : DReg) (pp : PReg)
  /-- `Rr = B[Pp++] (Z)` (43 R365) -/
  | ldByteZInc (rr : DReg) (pp : PReg)
  /-- `Rr = B[Pp++] (X)` (43 R365) -/
  | ldByteXInc (rr : DReg) (pp : PReg)
  /-- `[Pp++] = Rr` (43 R366) -/
  | stDInc (rr : DReg) (pp : PReg)
  /-- `[Pp++] = Pr` (43 R366) -/
  | stPInc (pr pp : PReg)
  /-- `W[Pp++] = Rr` (43 R367) -/
  | stHalfInc (rr : DReg) (pp : PReg)
  /-- `B[Pp++] = Rr` (43 R367) -/
  | stByteInc (rr : DReg) (pp : PReg)
  /-- `Rr = [Pp--]` (43 R362) -/
  | ldDDec (rr : DReg) (pp : PReg)
  /-- `Pr = [Pp--]` (43 R363) -/
  | ldPDec (pr pp : PReg)
  /-- `Rr = W[Pp--] (Z)` (43 R364) -/
  | ldHalfZDec (rr : DReg) (pp : PReg)
  /-- `Rr = W[Pp--] (X)` (43 R364) -/
  | ldHalfXDec (rr : DReg) (pp : PReg)
  /-- `Rr = B[Pp--] (Z)` (43 R365) -/
  | ldByteZDec (rr : DReg) (pp : PReg)
  /-- `Rr = B[Pp--] (X)` (43 R365) -/
  | ldByteXDec (rr : DReg) (pp : PReg)
  /-- `[Pp--] = Rr` (43 R366) -/
  | stDDec (rr : DReg) (pp : PReg)
  /-- `[Pp--] = Pr` (43 R366) -/
  | stPDec (pr pp : PReg)
  /-- `W[Pp--] = Rr` (43 R367) -/
  | stHalfDec (rr : DReg) (pp : PReg)
  /-- `B[Pp--] = Rr` (43 R367) -/
  | stByteDec (rr : DReg) (pp : PReg)
  /-- `Rr = [Pp]` (43 R362) -/
  | ldDInd (rr : DReg) (pp : PReg)
  /-- `Pr = [Pp]` (43 R363) -/
  | ldPInd (pr pp : PReg)
  /-- `Rr = W[Pp] (Z)` (43 R364) -/
  | ldHalfZInd (rr : DReg) (pp : PReg)
  /-- `Rr = W[Pp] (X)` (43 R364) -/
  | ldHalfXInd (rr : DReg) (pp : PReg)
  /-- `Rr = B[Pp] (Z)` (43 R365) -/
  | ldByteZInd (rr : DReg) (pp : PReg)
  /-- `Rr = B[Pp] (X)` (43 R365) -/
  | ldByteXInd (rr : DReg) (pp : PReg)
  /-- `[Pp] = Rr` (43 R366) -/
  | stDInd (rr : DReg) (pp : PReg)
  /-- `[Pp] = Pr` (43 R366) -/
  | stPInd (pr pp : PReg)
  /-- `W[Pp] = Rr` (43 R367) -/
  | stHalfInd (rr : DReg) (pp : PReg)
  /-- `B[Pp] = Rr` (43 R367) -/
  | stByteInd (rr : DReg) (pp : PReg)
  -- format dspLDST (30 R196)
  /-- `Rr = [Ii++]` (43 R404) -/
  | ldIInc (rr : DReg) (i : Quad)
  /-- `Rr.L = W[Ii++]` (43 R405) -/
  | ldILoInc (rr : DReg) (i : Quad)
  /-- `Rr.H = W[Ii++]` (43 R405) -/
  | ldIHiInc (rr : DReg) (i : Quad)
  /-- `[Ii++] = Rr` (43 R404) -/
  | stIInc (rr : DReg) (i : Quad)
  /-- `W[Ii++] = Rr.L` (43 R405) -/
  | stILoInc (rr : DReg) (i : Quad)
  /-- `W[Ii++] = Rr.H` (43 R405) -/
  | stIHiInc (rr : DReg) (i : Quad)
  /-- `Rr = [Ii--]` (43 R404) -/
  | ldIDec (rr : DReg) (i : Quad)
  /-- `Rr.L = W[Ii--]` (43 R405) -/
  | ldILoDec (rr : DReg) (i : Quad)
  /-- `Rr.H = W[Ii--]` (43 R405) -/
  | ldIHiDec (rr : DReg) (i : Quad)
  /-- `[Ii--] = Rr` (43 R404) -/
  | stIDec (rr : DReg) (i : Quad)
  /-- `W[Ii--] = Rr.L` (43 R405) -/
  | stILoDec (rr : DReg) (i : Quad)
  /-- `W[Ii--] = Rr.H` (43 R405) -/
  | stIHiDec (rr : DReg) (i : Quad)
  /-- `Rr = [Ii]` (43 R404) -/
  | ldIInd (rr : DReg) (i : Quad)
  /-- `Rr.L = W[Ii]` (43 R405) -/
  | ldILoInd (rr : DReg) (i : Quad)
  /-- `Rr.H = W[Ii]` (43 R405) -/
  | ldIHiInd (rr : DReg) (i : Quad)
  /-- `[Ii] = Rr` (43 R404) -/
  | stIInd (rr : DReg) (i : Quad)
  /-- `W[Ii] = Rr.L` (43 R405) -/
  | stILoInd (rr : DReg) (i : Quad)
  /-- `W[Ii] = Rr.H` (43 R405) -/
  | stIHiInd (rr : DReg) (i : Quad)
  /-- `Rr = [Ii ++ Mm]` (43 R406) -/
  | ldIMod (rr : DReg) (i m : Quad)
  /-- `[Ii ++ Mm] = Rr` (43 R406) -/
  | stIMod (rr : DReg) (i m : Quad)
  -- format dagMODim (30 R194)
  /-- `Ii += Mm` (43 R402) -/
  | addIM (i m : Quad)
  /-- `Ii -= Mm` (43 R402) -/
  | subIM (i m : Quad)
  -- format dagMODik (30 R195)
  /-- `Ii += 2` (43 R403) -/
  | addI2 (i : Quad)
  /-- `Ii -= 2` (43 R403) -/
  | subI2 (i : Quad)
  /-- `Ii += 4` (43 R403) -/
  | addI4 (i : Quad)
  /-- `Ii -= 4` (43 R403) -/
  | subI4 (i : Quad)
  -- format LDSTii (30 R199)
  /-- `Rr = [Pp + uimm]` (43 R368) -/
  | ldDOff (rr : DReg) (pp : PReg) (offset : BitVec 4)
  /-- `Rr = W[Pp + uimm] (Z)` (43 R369) -/
  | ldHalfZOff (rr : DReg) (pp : PReg) (offset : BitVec 4)
  /-- `Rr = W[Pp + uimm] (X)` (43 R369) -/
  | ldHalfXOff (rr : DReg) (pp : PReg) (offset : BitVec 4)
  /-- `Pr = [Pp + uimm]` (43 R370) -/
  | ldPOff (pr pp : PReg) (offset : BitVec 4)
  /-- `[Pp + uimm] = Rr` (43 R371) -/
  | stDOff (rr : DReg) (pp : PReg) (offset : BitVec 4)
  /-- `W[Pp + uimm] = Rr` (43 R371) -/
  | stHalfOff (rr : DReg) (pp : PReg) (offset : BitVec 4)
  /-- `[Pp + uimm] = Pr` (43 R371) -/
  | stPOff (pr pp : PReg) (offset : BitVec 4)
  -- format LDSTiiFP (30 R198)
  /-- `Rr = [FP - m]` (43 R372) -/
  | ldDFp (rr : DReg) (offset : BitVec 5)
  /-- `Pr = [FP - m]` (43 R372) -/
  | ldPFp (pr : PReg) (offset : BitVec 5)
  /-- `[FP - m] = Rr` (43 R372) -/
  | stDFp (rr : DReg) (offset : BitVec 5)
  /-- `[FP - m] = Pr` (43 R372) -/
  | stPFp (pr : PReg) (offset : BitVec 5)
  -- format LoopSetup (30 R200)
  /-- `LSETUP (top, bottom) LCc` (42 R331) -/
  | lsetup (c : LoopNo) (soffset : BitVec 4) (eoffset : BitVec 10)
  /-- `LSETUP (top, bottom) LCc = Pp` (42 R331) -/
  | lsetupP (c : LoopNo) (soffset : BitVec 4) (pp : PReg) (eoffset : BitVec 10)
  /-- `LSETUP (top, bottom) LCc = Pp >> 1` (42 R331) -/
  | lsetupPHalf (c : LoopNo) (soffset : BitVec 4) (pp : PReg) (eoffset : BitVec 10)
  -- format LDIMMhalf (30 R201)
  /-- `reg.L = imm16` (41 R271) -/
  | ldiLo (reg : GenReg) (imm : BitVec 16)
  /-- `reg.H = imm16` (41 R272) -/
  | ldiHi (reg : GenReg) (imm : BitVec 16)
  /-- `reg = imm16 (Z)` (41 R273) -/
  | ldiZ (reg : GenReg) (imm : BitVec 16)
  /-- `reg = imm16 (X)` (41 R274) -/
  | ldiX (reg : GenReg) (imm : BitVec 16)
  -- format CALLa (30 R202)
  /-- `JUMP.L label` (42 R303) -/
  | jumpLong (offset : BitVec 24)
  /-- `CALL label` (42 R310) -/
  | callLong (offset : BitVec 24)
  -- format LDSTidxI (30 R203)
  /-- `Rr = [Pp + k]` (43 R373) -/
  | ldDIdx (rr : DReg) (pp : PReg) (offset : BitVec 16)
  /-- `Pr = [Pp + k]` (43 R373) -/
  | ldPIdx (pr pp : PReg) (offset : BitVec 16)
  /-- `[Pp + k] = Rr` (43 R373) -/
  | stDIdx (rr : DReg) (pp : PReg) (offset : BitVec 16)
  /-- `[Pp + k] = Pr` (43 R373) -/
  | stPIdx (pr pp : PReg) (offset : BitVec 16)
  /-- `Rr = W[Pp + k] (Z)` (43 R374) -/
  | ldHalfZIdx (rr : DReg) (pp : PReg) (offset : BitVec 16)
  /-- `Rr = W[Pp + k] (X)` (43 R374) -/
  | ldHalfXIdx (rr : DReg) (pp : PReg) (offset : BitVec 16)
  /-- `W[Pp + k] = Rr` (43 R374) -/
  | stHalfIdx (rr : DReg) (pp : PReg) (offset : BitVec 16)
  /-- `Rr = B[Pp + k] (Z)` (43 R375) -/
  | ldByteZIdx (rr : DReg) (pp : PReg) (offset : BitVec 16)
  /-- `Rr = B[Pp + k] (X)` (43 R375) -/
  | ldByteXIdx (rr : DReg) (pp : PReg) (offset : BitVec 16)
  /-- `B[Pp + k] = Rr` (43 R375) -/
  | stByteIdx (rr : DReg) (pp : PReg) (offset : BitVec 16)
  -- format linkage (30 R204)
  /-- `LINK uimm` (43 R388) -/
  | link (framesize : BitVec 16)
  /-- `UNLINK` (43 R389) -/
  | unlink
  deriving DecidableEq, Repr

end Sys2Proof
end

