-- ==== Sys2Proof/Machine/State.lean ====
section
/-! DEFINITION. The state of the machine (spec 10), the reasons a step can stop, and the state after reset (10 R90). -/

namespace Sys2Proof.Machine

/-- R0 to R7 (10 R60). -/
structure DRegs where
  r0 : Word
  r1 : Word
  r2 : Word
  r3 : Word
  r4 : Word
  r5 : Word
  r6 : Word
  r7 : Word
  deriving DecidableEq, Repr

/-- P0 to P5 and FP (10 R61). The two stack pointers are fields of `State` (10 R69). -/
structure PRegs where
  p0 : Word
  p1 : Word
  p2 : Word
  p3 : Word
  p4 : Word
  p5 : Word
  fp : Word
  deriving DecidableEq, Repr

/-- One of the four register sets I, M, B, L (10 R62). -/
structure Quads where
  n0 : Word
  n1 : Word
  n2 : Word
  n3 : Word
  deriving DecidableEq, Repr

/-- The flags of ASTAT (10 R64). AC0_COPY and V_COPY always equal AC0 and V, so they are computed and not
stored (log entry 23); the reserved bits read as 0. -/
structure Astat where
  az : Bool
  an : Bool
  cc : Bool
  aq : Bool
  rndMod : Bool
  ac0 : Bool
  ac1 : Bool
  av0 : Bool
  av0s : Bool
  av1 : Bool
  av1s : Bool
  v : Bool
  vs : Bool
  deriving DecidableEq, Repr

/-- The registers of one hardware loop (10 R67): counter, top, bottom. -/
structure LoopRegs where
  lc : Word
  lt : Word
  lb : Word
  deriving DecidableEq, Repr

/-- The core timer (10 R75). -/
structure CoreTimer where
  tcntl : Word
  tperiod : Word
  tscale : Word
  tcount : Word
  deriving DecidableEq, Repr

/-- The registers of 10 R76 to R80, every access to which is refused (20 R137 (c), R144; 60 R480). Only the SIC's routing
of 60 R452 (`latchSources`) reads any of them. The CPLB address and data registers are descriptors that nothing consults, CPLBs being off (20
R144); taking an exception writes the status and fault-address registers (60 R445, log entry 39). Log entry 7. -/
structure SysRegs where
  imemControl : Word
  dmemControl : Word
  icplbAddr : Vector Word 16
  icplbData : Vector Word 16
  dcplbAddr : Vector Word 16
  dcplbData : Vector Word 16
  icplbStatus : Word
  icplbFaultAddr : Word
  dcplbStatus : Word
  dcplbFaultAddr : Word
  sicImask : Word
  sicIar0 : Word
  sicIar1 : Word
  sicIar2 : Word
  sicIsr : Word
  sicIwr : Word
  sicRvect : Word
  swrst : BitVec 16
  syscr : BitVec 16
  timer0Config : BitVec 16
  timer1Config : BitVec 16
  timer2Config : BitVec 16
  sport0Tcr1 : BitVec 16
  sport0Tcr2 : BitVec 16
  sport1Tcr1 : BitVec 16
  sport1Tcr2 : BitVec 16
  mdmaD0Config : BitVec 16
  mdmaS0Config : BitVec 16
  mdmaD1Config : BitVec 16
  mdmaS1Config : BitVec 16
  deriving DecidableEq, Repr

/-- What memory the board populates (20 R135 `SDRAM_SIZE`, 70 R512 (4)). Log entry 8. -/
structure Platform where
  sdramSize : Nat
  asyncBank0 : Bool
  asyncBank1 : Bool
  asyncBank2 : Bool
  asyncBank3 : Bool
  deriving DecidableEq, Repr

/-- What the environment does at one instruction boundary (60 R442): the NMI pin and the core timer, and nothing else,
since no other device makes a move (60 R480). Log entry 6. -/
structure Arrival where
  nmi : Bool
  coreTimer : Bool
  deriving DecidableEq, Repr

/-- Memory: the bytes that hold a value, addresses strictly rising. An unlisted byte has no value (10 R90, R91).
Log entry 3. -/
abbrev Memory := List Host.Cell

/-- A set of addresses, strictly rising. -/
abbrev AddrSet := List Nat

/-- The machine. Mode is no field: it is a function of `ipend` (60 R421). -/
structure State where
  /-- R0 to R7 (10 R60). -/
  r : DRegs
  /-- P0 to P5 and FP (10 R61). -/
  p : PRegs
  /-- The supervisor stack pointer (10 R69). -/
  spSup : Word
  /-- The user stack pointer (10 R69). -/
  usp : Word
  /-- I0 to I3 (10 R41, R62). -/
  i : Quads
  /-- M0 to M3 (10 R62). -/
  m : Quads
  /-- B0 to B3 (10 R62). -/
  b : Quads
  /-- L0 to L3 (10 R62). -/
  l : Quads
  /-- A0 (10 R63). -/
  a0 : Acc
  /-- A1 (10 R63). -/
  a1 : Acc
  /-- ASTAT (10 R64). -/
  astat : Astat
  /-- The address of the next instruction (10 R65). -/
  pc : Word
  /-- Return addresses (10 R66). -/
  rets : Word
  reti : Word
  retx : Word
  retn : Word
  rete : Word
  /-- LC0, LT0, LB0 (10 R67). -/
  loop0 : LoopRegs
  /-- LC1, LT1, LB1 (10 R67). -/
  loop1 : LoopRegs
  /-- SEQSTAT (10 R70). -/
  seqstat : Word
  /-- SYSCFG (10 R71). -/
  syscfg : Word
  /-- EMUDAT (10 R72): no access to it has a meaning, so nothing reads it. -/
  emudat : Word
  /-- EVT0 to EVT15 (10 R74). -/
  evt : Vector Word 16
  /-- IMASK (10 R74). -/
  imask : Word
  /-- IPEND (10 R74). -/
  ipend : Word
  /-- ILAT (10 R74). -/
  ilat : Word
  /-- IPRIO (10 R74). -/
  iprio : Word
  /-- TCNTL, TPERIOD, TSCALE, TCOUNT (10 R75). -/
  timer : CoreTimer
  /-- Registers to which every access is refused (10 R76 to R80). -/
  sys : SysRegs
  /-- The Idle state (10 R57, 42 R346). -/
  idle : Bool
  /-- The bytes of memory that hold a value (20 R130). -/
  mem : Memory
  /-- What memory exists (20 R135). -/
  platform : Platform
  /-- The MODEL's field: the addresses instructions were fetched from in this run (20 R143, log entry 9). -/
  fetched : AddrSet
  /-- The MODEL's field: the addresses the core stored to in this run (20 R143, log entry 9). -/
  stored : AddrSet
  /-- The MODEL's field: what the environment does at the coming boundaries (60 R442, log entry 6). -/
  arrivals : List Arrival
  /-- The MODEL's field: how many free values have been taken (00 R21, log entry 5). -/
  draws : Nat
  deriving DecidableEq, Repr

/-- Why the machine stops with a fault. -/
inductive Fault where
  /-- Raised by taking an exception while an exception, the NMI or the reset level is in service (60 R448). Safe. -/
  | doubleFault
  /-- Raised by a read or a fetch of a byte of memory that nothing has written (10 R91, 20 R146, 30 R172). Safe. -/
  | readOfUnwritten
  deriving DecidableEq, Repr

/-- Why a step has no meaning. Each is raised where a rule of the spec says `refuse`; each is safe, since a run
that meets one proves nothing more. -/
inductive Refusal where
  /-- Raised by the dispatcher for an instruction that has no meaning yet. Safe. -/
  | notModelled (mnemonic : String)
  /-- Raised by the decoder for a word that matches no row, and by a meaning for a term that is not well formed
  (30 R210, 41 R260, 43 R376). Safe. -/
  | notInSubset
  /-- Raised by the fetch of a 64-bit instruction (30 R173). Safe. -/
  | multiIssue
  /-- Raised by an access to an MMR outside 10 R74 and R75, with its name where the spec gives one (60 R480). Safe. -/
  | unmodelledMmr (name : String)
  /-- Raised by an access to a core MMR that is not an aligned 32-bit one (20 R137 (b)). Safe. -/
  | mmrWidth
  /-- Raised by a store to IPEND (60 R431). Safe. -/
  | readOnlyMmr
  /-- Raised by a write that sets a bit the spec calls reserved: of ASTAT, of IMASK (by a store or by STI), of TCNTL
  (10 R64, R74, R75, R83). Safe. -/
  | reservedBitWrite
  /-- Raised by an access to a reserved range or to memory the board does not populate (20 R138). Safe. -/
  | unpopulatedAddress
  /-- Raised by a load or store to L1 instruction memory (20 R136 (a)). Safe. -/
  | dataAccessToInstrMem
  /-- Raised by a store to the boot ROM (20 R146). Safe. -/
  | romWrite
  /-- Raised by a fetch from L1 data memory, scratchpad or MMR space (20 R136 (b)). Safe. -/
  | fetchRegion
  /-- Raised by a store to fetched bytes or a fetch of stored bytes (20 R143, log entry 9). Safe. -/
  | storeToCode
  /-- Raised by the loop cases of 42 R332. Safe. -/
  | loopCornerCase
  /-- Raised by an index modification outside the conditions of 43 R400. Safe. -/
  | circularCorner
  /-- Raised by TESTSET outside SDRAM and asynchronous memory (42 R349). Safe. -/
  | testsetRegion
  /-- Raised by TESTSET through SP or FP (42 R349). Safe. -/
  | testsetPointer
  /-- Raised by EMUEXCPT, and by RTE outside Emulation mode (42 R338, R347). Safe. -/
  | emulation
  /-- Raised by RAISE 1 (42 R340). Safe. -/
  | softwareReset
  /-- Raised by RAISE 0, 3 and 4 (42 R340). Safe. -/
  | raiseNumber
  /-- Raised by an event return at a level it does not belong to (60 R443). Safe. -/
  | returnLevel
  /-- Raised by an event return to an odd address (60 R443). Safe. -/
  | oddReturn
  /-- Raised by a write of an odd value to LT0, LT1, LB0 or LB1 (41 R263). Safe. -/
  | oddLoopAddress
  /-- Raised by a write to ASTAT whose copy bits differ from AC0 and V (41 R263). Safe. -/
  | astatCopyBits
  /-- Raised by a write to SEQSTAT (10 R70, 41 R263). Safe. -/
  | seqstatWrite
  /-- Raised by a write to SYSCFG that sets SSSTEP or SNEN or changes a reserved bit (10 R71). Safe. -/
  | syscfgWrite
  /-- Raised by an access to EMUDAT (10 R72, 41 R263, 43 R382). Safe. -/
  | emudat
  /-- Raised by a load into the pointer that the instruction post-modifies (43 R361, R363). Safe. -/
  | loadIntoPostModified
  /-- Raised where the next sequential address would pass 0xFFFFFFFF (10 R65). Safe. -/
  | pcWrap
  deriving DecidableEq, Repr

/-- The exception causes of 60 R445. The model raises `excpt`, `dataMisaligned`, `instrMisaligned` and
`illegalSupervisor`; the table's model column says why each other one never occurs. A cause that a data access raises carries
the address of that access. -/
inductive Cause where
  | excpt (n : BitVec 4)
  | singleStep | traceFull
  | undefinedInstr | illegalCombination
  | dataProtection (a : Word) | dataMisaligned (a : Word)
  | unrecoverable
  | dataCplbMiss (a : Word) | dataCplbMultiple (a : Word)
  | watchpoint | fetchReserved | instrMisaligned
  | instrProtection | instrCplbMiss | instrCplbMultiple | illegalSupervisor
  deriving DecidableEq, Repr

/-- What an operation within an instruction answers: a result, an exception to take, or a stop (00 R21). -/
inductive Res (α : Type) where
  | ok (a : α)
  | trap (c : Cause)
  | fault (f : Fault)
  | refused (r : Refusal)
  deriving DecidableEq, Repr

/-- What an instruction answers. -/
abbrev Result := Host.Outcome State Fault Refusal

/-- The agents of 00 R22 (a) to (e), one constructor each. -/
inductive Agent where
  | core
  | peripheralDma
  | memoryDma
  /-- The devices that raise interrupts, of which only the core timer makes a move (60 R480). -/
  | peripherals
  /-- The pins: RESET, the NMI, JTAG, the external memory. -/
  | externalWorld
  deriving DecidableEq, Repr

/-- The four outcomes of an agent's step (00 R21); `stuck` says that the agent has no step. -/
inductive Move where
  | next (s : State)
  | fault (f : Fault)
  | refused (r : Refusal)
  | stuck
  deriving DecidableEq, Repr

/-- The operating modes (10 R57). -/
inductive Mode where
  | emulation | supervisor | user
  deriving DecidableEq, Repr

/-- The state on leaving reset (10 R90, 70 R502). A register the table gives no value holds 0: DESIGN CHOICE,
unsafe, log entry 2. -/
def State.reset : State where
  r := ⟨0, 0, 0, 0, 0, 0, 0, 0⟩
  p := ⟨0, 0, 0, 0, 0, 0, 0⟩
  spSup := 0
  usp := 0
  i := ⟨0, 0, 0, 0⟩
  m := ⟨0, 0, 0, 0⟩
  b := ⟨0, 0, 0, 0⟩
  l := ⟨0, 0, 0, 0⟩
  a0 := 0
  a1 := 0
  astat := ⟨false, false, false, false, false, false, false, false, false, false, false, false, false⟩
  pc := Config.resetVector
  rets := 0
  reti := 0
  retx := 0
  retn := 0
  rete := 0
  loop0 := ⟨0, 0, 0⟩
  loop1 := ⟨0, 0, 0⟩
  seqstat := 0
  syscfg := 0x30#32
  emudat := 0
  evt := #v[0, 0, 0, 0, 0, 0, 0, 0, 0, 0, 0, 0, 0, 0, 0, 0]
  imask := 0x1F#32
  ipend := 0x12#32
  ilat := 0
  iprio := 0
  timer := ⟨0, 0, 0, 0⟩
  sys :=
    { imemControl := 0, dmemControl := 0
      icplbAddr := .replicate 16 0, icplbData := .replicate 16 0
      dcplbAddr := .replicate 16 0, dcplbData := .replicate 16 0
      icplbStatus := 0, icplbFaultAddr := 0, dcplbStatus := 0, dcplbFaultAddr := 0
      sicImask := 0
      sicIar0 := 0x10000000#32, sicIar1 := 0x33322221#32, sicIar2 := 0x66655444#32
      sicIsr := 0, sicIwr := 0xFFFFFFFF#32, sicRvect := 0, swrst := 0, syscr := 0
      timer0Config := 0, timer1Config := 0, timer2Config := 0
      sport0Tcr1 := 0, sport0Tcr2 := 0, sport1Tcr1 := 0, sport1Tcr2 := 0
      mdmaD0Config := 0, mdmaS0Config := 0, mdmaD1Config := 0, mdmaS1Config := 0 }
  idle := false
  mem := []
  platform := ⟨Config.sdramSize, true, true, true, true⟩
  fetched := []
  stored := []
  arrivals := []
  draws := 0

end Sys2Proof.Machine
end

