-- ==== Sys2Proof/Machine/Regs.lean ====
section
/-! DEFINITION. Reading and writing one register or one bit; the mode, and the stack pointer it binds
(10 R60 to R67, R69, 60 R421). -/

namespace Sys2Proof.Machine

/-! ### Bits of a word (00 R18) -/

/-- `w[k]`. -/
def bit (w : Word) (k : Nat) : Bool := w.getLsbD k

/-- `w[k] <- 1`. -/
def setBit (w : Word) (k : Nat) : Word := w ||| (1#32 <<< k)

/-- `w[k] <- 0`. -/
def clearBit (w : Word) (k : Nat) : Word := w &&& ~~~(1#32 <<< k)

/-- A word whose low half is replaced (10 R60). -/
def withLow (w : Word) (h : BitVec 16) : Word := w.extractLsb' 16 16 ++ h

/-- A word whose high half is replaced (10 R60). -/
def withHigh (w : Word) (h : BitVec 16) : Word := h ++ w.extractLsb' 0 16

/-- `w.L`, bits 15:0 (10 R60). -/
def lowHalf (w : Word) : BitVec 16 := w.extractLsb' 0 16

/-- `w.H`, bits 31:16 (10 R60). -/
def highHalf (w : Word) : BitVec 16 := w.extractLsb' 16 16

/-- `w.B`, bits 7:0 (10 R60). -/
def lowByte (w : Word) : Byte := w.extractLsb' 0 8

/-! ### Register files -/

/-- Read of a data register. -/
def DRegs.get (f : DRegs) : DReg → Word
  | .r0 => f.r0 | .r1 => f.r1 | .r2 => f.r2 | .r3 => f.r3
  | .r4 => f.r4 | .r5 => f.r5 | .r6 => f.r6 | .r7 => f.r7

/-- Write of a data register. -/
def DRegs.set (f : DRegs) (n : DReg) (v : Word) : DRegs :=
  match n with
  | .r0 => { f with r0 := v } | .r1 => { f with r1 := v } | .r2 => { f with r2 := v } | .r3 => { f with r3 := v }
  | .r4 => { f with r4 := v } | .r5 => { f with r5 := v } | .r6 => { f with r6 := v } | .r7 => { f with r7 := v }

/-- Read of a register of a set I, M, B, L. -/
def Quads.get (f : Quads) : Quad → Word
  | .n0 => f.n0 | .n1 => f.n1 | .n2 => f.n2 | .n3 => f.n3

/-- Write of a register of a set I, M, B, L. -/
def Quads.set (f : Quads) (n : Quad) (v : Word) : Quads :=
  match n with
  | .n0 => { f with n0 := v } | .n1 => { f with n1 := v } | .n2 => { f with n2 := v } | .n3 => { f with n3 := v }

/-! ### The mode and the stack pointers -/

/-- The mode as a function of IPEND (60 R421). -/
def modeOf (ipend : Word) : Mode :=
  if bit ipend 0 then .emulation
  else if ipend &&& 0xFFEE#32 ≠ 0#32 then .supervisor
  else .user

/-- The current mode. -/
def State.mode (s : State) : Mode := modeOf s.ipend

/-- The stack pointer the name SP denotes (10 R69). -/
def State.sp (s : State) : Word :=
  match s.mode with
  | .user => s.usp
  | .supervisor | .emulation => s.spSup

/-- Write of the stack pointer the name SP denotes (10 R69). -/
def State.setSp (s : State) (v : Word) : State :=
  match s.mode with
  | .user => { s with usp := v }
  | .supervisor | .emulation => { s with spSup := v }

/-! ### The registers of the state -/

/-- `R[n]`. -/
def State.getD (s : State) (n : DReg) : Word := s.r.get n

/-- `R[n] <- v`. -/
def State.setD (s : State) (n : DReg) (v : Word) : State := { s with r := s.r.set n v }

/-- `P[n]`, with SP as the mode binds it (10 R69). -/
def State.getP (s : State) : PReg → Word
  | .p0 => s.p.p0 | .p1 => s.p.p1 | .p2 => s.p.p2 | .p3 => s.p.p3
  | .p4 => s.p.p4 | .p5 => s.p.p5 | .fp => s.p.fp | .sp => s.sp

/-- `P[n] <- v`, with SP as the mode binds it (10 R69). -/
def State.setP (s : State) (n : PReg) (v : Word) : State :=
  match n with
  | .p0 => { s with p := { s.p with p0 := v } } | .p1 => { s with p := { s.p with p1 := v } }
  | .p2 => { s with p := { s.p with p2 := v } } | .p3 => { s with p := { s.p with p3 := v } }
  | .p4 => { s with p := { s.p with p4 := v } } | .p5 => { s with p := { s.p with p5 := v } }
  | .fp => { s with p := { s.p with fp := v } } | .sp => s.setSp v

/-- `I[n] <- v`. -/
def State.setI (s : State) (n : Quad) (v : Word) : State := { s with i := s.i.set n v }

/-- Read of a data or pointer register. -/
def State.getDP (s : State) : DPReg → Word
  | .d r => s.getD r
  | .p r => s.getP r

/-- Write of a data or pointer register. -/
def State.setDP (s : State) (n : DPReg) (v : Word) : State :=
  match n with
  | .d r => s.setD r v
  | .p r => s.setP r v

/-- Read of a register of groups 0 to 3 (10 R73). -/
def State.getGen (s : State) : GenReg → Word
  | .d r => s.getD r
  | .p r => s.getP r
  | .i n => s.i.get n
  | .m n => s.m.get n
  | .b n => s.b.get n
  | .l n => s.l.get n

/-- Write of a register of groups 0 to 3 (10 R73). -/
def State.setGen (s : State) (g : GenReg) (v : Word) : State :=
  match g with
  | .d r => s.setD r v
  | .p r => s.setP r v
  | .i n => s.setI n v
  | .m n => { s with m := s.m.set n v }
  | .b n => { s with b := s.b.set n v }
  | .l n => { s with l := s.l.set n v }

/-- The registers of loop `k` (10 R67). -/
def State.getLoop (s : State) : LoopNo → LoopRegs
  | .k0 => s.loop0
  | .k1 => s.loop1

/-- Write of the registers of loop `k`. -/
def State.setLoop (s : State) (k : LoopNo) (v : LoopRegs) : State :=
  match k with
  | .k0 => { s with loop0 := v }
  | .k1 => { s with loop1 := v }

/-- `EVTk` (10 R74). -/
def State.getEvt (s : State) (k : Fin 16) : Word := s.evt[k]

/-- `EVTk <- v`. -/
def State.setEvt (s : State) (k : Fin 16) (v : Word) : State := { s with evt := s.evt.set k v }

/-- A free value (00 R21 `draw(32)`), and the state that has taken it. Log entry 5. -/
def State.draw (s : State) : Word × State := (Config.freeWord s.draws, { s with draws := s.draws + 1 })

end Sys2Proof.Machine
end

