-- ==== Sys2Proof/Machine/Flags.lean ====
section
/-! DEFINITION. The flags: ASTAT as a word (10 R64, 41 R263), the flag helpers of 41 R225, the side results of the
compares (41 R276, R279, R282), and the bits that move to and from CC (41 R275). -/

namespace Sys2Proof.Machine

/-- `V <- v` with its sticky bit (10 R64); V_COPY follows, being V. -/
def Astat.putV (a : Astat) (v : Bool) : Astat := { a with v := v, vs := a.vs || v }

/-- `AC0 <- c` (10 R64); AC0_COPY follows, being AC0. -/
def Astat.putAc0 (a : Astat) (c : Bool) : Astat := { a with ac0 := c }

/-- `CC <- c`. -/
def Astat.putCc (a : Astat) (c : Bool) : Astat := { a with cc := c }

/-- `carry_32(x, y)`: bit 32 of the 33-bit sum (00 R19). -/
def carry32 (x y : Word) : Bool := decide (2 ^ 32 ≤ x.toNat + y.toNat)

/-- `ovf_add_32` (00 R19). -/
def ovfAdd32 (x y v : Word) : Bool := x.msb == y.msb && v.msb != x.msb

/-- `ovf_sub_32` (00 R19). -/
def ovfSub32 (x y v : Word) : Bool := x.msb != y.msb && v.msb != x.msb

/-- `flags_nz` (41 R225). -/
def Astat.flagsNz (a : Astat) (v : Word) : Astat := { a with az := v == 0#32, an := v.msb }

/-- `flags_logical` (41 R225). -/
def Astat.flagsLogical (a : Astat) (v : Word) : Astat := ((a.flagsNz v).putAc0 false).putV false

/-- `flags_add` (41 R225). -/
def Astat.flagsAdd (a : Astat) (x y v : Word) : Astat :=
  ((a.flagsNz v).putAc0 (carry32 x y)).putV (ovfAdd32 x y v)

/-- `flags_sub` (41 R225): AC0 = 1 means no borrow. -/
def Astat.flagsSub (a : Astat) (x y v : Word) : Astat :=
  ((a.flagsNz v).putAc0 (y.ule x)).putV (ovfSub32 x y v)

/-- The flags of a shift (41 R242 to R244, R252 to R254): `flags_nz(v); V <- 0`. -/
def Astat.flagsShift (a : Astat) (v : Word) : Astat := (a.flagsNz v).putV false

/-- The flags of a negation (41 R250). -/
def Astat.flagsNeg (a : Astat) (x v : Word) : Astat :=
  ((a.flagsNz v).putV (x == 0x80000000#32)).putAc0 (x == 0#32)

/-- The flags of a signed compare whose condition is `c` (41 R276 to R278). -/
def Astat.flagsCompare (a : Astat) (c : Bool) (x y : Word) : Astat :=
  { a with cc := c, az := x == y, an := x.slt y, ac0 := y.ule x }

/-- The flags of an unsigned compare whose condition is `c` (41 R279, R280). -/
def Astat.flagsCompareU (a : Astat) (c : Bool) (x y : Word) : Astat :=
  { a with cc := c, az := x == y, an := x.ult y, ac0 := y.ule x }

/-- The flags of an accumulator compare whose condition is `c` (41 R282). -/
def Astat.flagsCompareAcc (a : Astat) (c : Bool) (x y : Acc) : Astat :=
  { a with cc := c, az := x == y, an := x.slt y, ac0 := y.ule x }

/-- The named bit (41 R275). -/
def Astat.get (a : Astat) : AstatBit → Bool
  | .az => a.az | .an => a.an | .aq => a.aq | .ac0 => a.ac0 | .ac1 => a.ac1 | .av0 => a.av0 | .av0s => a.av0s
  | .av1 => a.av1 | .av1s => a.av1s | .v => a.v | .vs => a.vs

/-- Write of the named bit alone (41 R275): a write to V does not set VS; the copy bits follow. -/
def Astat.put (a : Astat) (n : AstatBit) (x : Bool) : Astat :=
  match n with
  | .az => { a with az := x } | .an => { a with an := x } | .aq => { a with aq := x }
  | .ac0 => { a with ac0 := x } | .ac1 => { a with ac1 := x } | .av0 => { a with av0 := x }
  | .av0s => { a with av0s := x } | .av1 => { a with av1 := x } | .av1s => { a with av1s := x }
  | .v => { a with v := x } | .vs => { a with vs := x }

/-- A flag at its bit position. -/
def flagAt (b : Bool) (k : Nat) : Word := if b then 1#32 <<< k else 0#32

/-- ASTAT as a word (10 R64): the reserved bits are 0. -/
def Astat.toWord (a : Astat) : Word :=
  flagAt a.az 0 ||| flagAt a.an 1 ||| flagAt a.ac0 2 ||| flagAt a.v 3 ||| flagAt a.cc 5 ||| flagAt a.aq 6 |||
  flagAt a.rndMod 8 ||| flagAt a.ac0 12 ||| flagAt a.ac1 13 ||| flagAt a.av0 16 ||| flagAt a.av0s 17 |||
  flagAt a.av1 18 ||| flagAt a.av1s 19 ||| flagAt a.v 24 ||| flagAt a.vs 25

/-- The bits of ASTAT that hold a flag (10 R64). -/
def astatMask : Word := 0x030F316F#32

/-- The fields of a word in the layout of ASTAT (10 R64). -/
def Astat.ofFields (w : Word) : Astat where
  az := bit w 0
  an := bit w 1
  cc := bit w 5
  aq := bit w 6
  rndMod := bit w 8
  ac0 := bit w 12
  ac1 := bit w 13
  av0 := bit w 16
  av0s := bit w 17
  av1 := bit w 18
  av1s := bit w 19
  v := bit w 24
  vs := bit w 25

/-- A write to ASTAT as a whole (41 R263): a set reserved bit is refused (10 R83), and so are copy bits that
differ from AC0 and V. -/
def Astat.ofWord (w : Word) : Res Astat :=
  if w &&& ~~~astatMask ≠ 0#32 then .refused .reservedBitWrite
  else if bit w 2 ≠ bit w 12 ∨ bit w 3 ≠ bit w 24 then .refused .astatCopyBits
  else .ok (.ofFields w)

end Sys2Proof.Machine
end

