-- ==== Sys2Proof/Machine/MemMap.lean ====
section
/-! DEFINITION. The address map (20 R135), what each kind of access can reach (20 R136, R138), and the names of the
memory-mapped registers (10 R74 to R78). -/

namespace Sys2Proof.Machine

/-- The regions of 20 R135. -/
inductive Region where
  | sdram
  | async (bank : Fin 4)
  | bootRom
  | dataA | dataB
  | l1Instr
  | scratchpad
  | sysMmr | coreMmr
  | reserved
  deriving DecidableEq, Repr

/-- One row of the map: first address, last address, region. -/
structure MapRow where
  first : Nat
  last : Nat
  region : Region
  deriving DecidableEq, Repr

/-- The map of 20 R135; the SRAM and SRAM-or-cache rows of one bank are one region, since caches stay off (20 R144). -/
def memMap : List MapRow :=
  [ ⟨0x00000000, 0x07FFFFFF, .sdram⟩,
    ⟨0x20000000, 0x200FFFFF, .async 0⟩,
    ⟨0x20100000, 0x201FFFFF, .async 1⟩,
    ⟨0x20200000, 0x202FFFFF, .async 2⟩,
    ⟨0x20300000, 0x203FFFFF, .async 3⟩,
    ⟨0xEF000000, 0xEF0003FF, .bootRom⟩,
    ⟨0xFF800000, 0xFF807FFF, .dataA⟩,
    ⟨0xFF900000, 0xFF907FFF, .dataB⟩,
    ⟨0xFFA00000, 0xFFA13FFF, .l1Instr⟩,
    ⟨0xFFB00000, 0xFFB00FFF, .scratchpad⟩,
    ⟨0xFFC00000, 0xFFDFFFFF, .sysMmr⟩,
    ⟨0xFFE00000, 0xFFFFFFFF, .coreMmr⟩ ]

/-- The region of an address; an address in no row is reserved (20 R135). -/
def regionOf (a : Nat) : Region :=
  match memMap.find? (fun m => m.first ≤ a && a ≤ m.last) with
  | some m => m.region
  | none => .reserved

/-- MMR space (20 R137, R146). -/
def inMmrSpace (a : Nat) : Bool := 0xFFC00000 ≤ a

/-- The board has memory at the address (20 R135, R138). -/
def Platform.populates (p : Platform) (a : Nat) : Bool :=
  match regionOf a with
  | .sdram => a < p.sdramSize
  | .async 0 => p.asyncBank0
  | .async 1 => p.asyncBank1
  | .async 2 => p.asyncBank2
  | .async _ => p.asyncBank3
  | .reserved => false
  | .bootRom | .dataA | .dataB | .l1Instr | .scratchpad | .sysMmr | .coreMmr => true

/-- Why the core cannot load the byte at `a`, if it cannot (20 R136 (a), R138). -/
def readBar (p : Platform) (a : Nat) : Option Refusal :=
  if p.populates a then
    match regionOf a with
    | .l1Instr => some .dataAccessToInstrMem
    | .sdram | .async _ | .bootRom | .dataA | .dataB | .scratchpad | .sysMmr | .coreMmr | .reserved => none
  else some .unpopulatedAddress

/-- Why the core cannot store to the byte at `a`, if it cannot (20 R136 (a), R138, R146). -/
def writeBar (p : Platform) (a : Nat) : Option Refusal :=
  match readBar p a with
  | some r => some r
  | none => if regionOf a = .bootRom then some .romWrite else none

/-- Why the core cannot fetch the byte at `a`, if it cannot (20 R136 (b), R138). -/
def fetchBar (p : Platform) (a : Nat) : Option Refusal :=
  if p.populates a then
    match regionOf a with
    | .sdram | .async _ | .bootRom | .l1Instr => none
    | .dataA | .dataB | .scratchpad | .sysMmr | .coreMmr | .reserved => some .fetchRegion
  else some .unpopulatedAddress

/-- SDRAM or asynchronous memory, where TESTSET works (42 R349). -/
def Region.isExternal : Region → Bool
  | .sdram | .async _ => true
  | .bootRom | .dataA | .dataB | .l1Instr | .scratchpad | .sysMmr | .coreMmr | .reserved => false

/-! ### Memory-mapped registers -/

/-- The MMRs with modelled behaviour (20 R137 (c)): those of 10 R74 and R75. -/
inductive CoreMmr where
  | evt (k : Fin 16)
  | imask | ipend | ilat | iprio
  | tcntl | tperiod | tscale | tcount
  deriving DecidableEq, Repr

/-- The modelled MMR whose four bytes include the address (10 R74, R75). -/
def CoreMmr.ofAddr (a : Nat) : Option CoreMmr :=
  if h : 0xFFE02000 ≤ a ∧ a < 0xFFE02040 then some (.evt ⟨(a - 0xFFE02000) / 4, by omega⟩)
  else if a / 4 = 0xFFE02104 / 4 then some .imask
  else if a / 4 = 0xFFE02108 / 4 then some .ipend
  else if a / 4 = 0xFFE0210C / 4 then some .ilat
  else if a / 4 = 0xFFE02110 / 4 then some .iprio
  else if a / 4 = 0xFFE03000 / 4 then some .tcntl
  else if a / 4 = 0xFFE03004 / 4 then some .tperiod
  else if a / 4 = 0xFFE03008 / 4 then some .tscale
  else if a / 4 = 0xFFE0300C / 4 then some .tcount
  else none

/-- A family of MMRs the spec names and the model refuses: `count` registers, `stride` apart. -/
structure NamedMmr where
  base : Nat
  count : Nat
  stride : Nat
  /-- Width in bytes. -/
  width : Nat
  name : String
  deriving DecidableEq, Repr

/-- The MMRs the spec names outside 10 R74 and R75 (10 R76, R77, R78), listed so that they are recognised. -/
def namedMmrs : List NamedMmr :=
  [ ⟨0xFFE00004, 1, 4, 4, "DMEM_CONTROL"⟩, ⟨0xFFE00008, 1, 4, 4, "DCPLB_STATUS"⟩,
    ⟨0xFFE0000C, 1, 4, 4, "DCPLB_FAULT_ADDR"⟩, ⟨0xFFE00100, 16, 4, 4, "DCPLB_ADDRn"⟩,
    ⟨0xFFE00200, 16, 4, 4, "DCPLB_DATAn"⟩, ⟨0xFFE01004, 1, 4, 4, "IMEM_CONTROL"⟩,
    ⟨0xFFE01008, 1, 4, 4, "ICPLB_STATUS"⟩, ⟨0xFFE0100C, 1, 4, 4, "ICPLB_FAULT_ADDR"⟩,
    ⟨0xFFE01100, 16, 4, 4, "ICPLB_ADDRn"⟩, ⟨0xFFE01200, 16, 4, 4, "ICPLB_DATAn"⟩,
    ⟨0xFFC00100, 1, 4, 2, "SWRST"⟩, ⟨0xFFC00104, 1, 4, 2, "SYSCR"⟩, ⟨0xFFC00108, 1, 4, 4, "SIC_RVECT"⟩,
    ⟨0xFFC0010C, 1, 4, 4, "SIC_IMASK"⟩, ⟨0xFFC00110, 3, 4, 4, "SIC_IARn"⟩, ⟨0xFFC00120, 1, 4, 4, "SIC_ISR"⟩,
    ⟨0xFFC00124, 1, 4, 4, "SIC_IWR"⟩, ⟨0xFFC00600, 3, 16, 2, "TIMERx_CONFIG"⟩,
    ⟨0xFFC00800, 2, 4, 2, "SPORT0_TCRn"⟩, ⟨0xFFC00900, 2, 4, 2, "SPORT1_TCRn"⟩,
    ⟨0xFFC00E08, 1, 4, 2, "MDMA_D0_CONFIG"⟩, ⟨0xFFC00E48, 1, 4, 2, "MDMA_S0_CONFIG"⟩,
    ⟨0xFFC00E88, 1, 4, 2, "MDMA_D1_CONFIG"⟩, ⟨0xFFC00EC8, 1, 4, 2, "MDMA_S1_CONFIG"⟩ ]

/-- The address is that of a byte of one of the family's registers. -/
def NamedMmr.holds (m : NamedMmr) (a : Nat) : Bool :=
  m.base ≤ a && (a - m.base) / m.stride < m.count && (a - m.base) % m.stride < m.width

/-- The name of the unmodelled MMR at an address; the empty string where the spec names none. -/
def mmrName (a : Nat) : String :=
  match namedMmrs.find? (fun m => m.holds a) with
  | some m => m.name
  | none => ""

end Sys2Proof.Machine
end

