-- ==== Sys2Proof/Machine/Memory.lean ====
section
/-! DEFINITION. Memory byte by byte, and sets of addresses, each in its one canonical form (log entries 3 and 9). -/

namespace Sys2Proof.Machine

/-- The byte at an address, if it holds a value. -/
def Memory.read : Memory → Nat → Option Byte
  | [], _ => none
  | (k, v) :: rest, a => if k = a then some v else Memory.read rest a

/-- Write of one byte. -/
def Memory.write : Memory → Nat → Byte → Memory
  | [], a, x => [(a, x)]
  | (k, v) :: rest, a, x =>
    if a < k then (a, x) :: (k, v) :: rest
    else if a = k then (a, x) :: rest
    else (k, v) :: Memory.write rest a x

/-- The canonical form of memory: addresses strictly rising and below 2^32 (20 R130). An unlisted byte has no value,
so no entry can equal what an unlisted address reads as. -/
def Memory.wf : Memory → Bool
  | [] => true
  | (k, _) :: rest => decide (k < 2 ^ 32) && rest.all (fun c => decide (k < c.1)) && Memory.wf rest

/-- Insertion of one address. -/
def AddrSet.insert : AddrSet → Nat → AddrSet
  | [], a => [a]
  | k :: rest, a =>
    if a < k then a :: k :: rest else if a = k then k :: rest else k :: AddrSet.insert rest a

/-- The canonical form of a set: strictly rising. -/
def AddrSet.wf : AddrSet → Bool
  | [] => true
  | k :: rest => rest.all (fun c => decide (k < c)) && AddrSet.wf rest

/-- The `n` addresses from `a` up. -/
def span (a n : Nat) : List Nat := (List.range n).map (a + ·)

/-- Insertion of several addresses. -/
def AddrSet.insertAll (t : AddrSet) (as : List Nat) : AddrSet := as.foldl AddrSet.insert t

/-- Write of several bytes at rising addresses. -/
def Memory.writeBytes (m : Memory) (a : Nat) : List Byte → Memory
  | [] => m
  | x :: xs => Memory.writeBytes (m.write a x) (a + 1) xs

/-- Read of `n` bytes at rising addresses; none if one of them holds no value. -/
def Memory.readBytes (m : Memory) (a : Nat) : Nat → Option (List Byte)
  | 0 => some []
  | n + 1 =>
    match Memory.read m a, Memory.readBytes m (a + 1) n with
    | some x, some xs => some (x :: xs)
    | _, _ => none

end Sys2Proof.Machine
end

