-- ==== Sys2Proof/Machine/Ops.lean ====
section
/-! DEFINITION. The operations that the instructions share: events and exceptions (60 R440 to R448), the end of an
instruction (42 R300, R330), memory access (20 R146) with the memory-mapped registers (10 R74, R75), and the circular
addressing of the index registers (43 R400). -/

namespace Sys2Proof.Machine

/-! ### Sequencing operations that can stop -/

/-- The second operation runs where the first gave a result. -/
def Res.bind {α β : Type} (x : Res α) (k : α → Res β) : Res β :=
  match x with
  | .ok a => k a
  | .trap c => .trap c
  | .fault f => .fault f
  | .refused r => .refused r

/-! ### Events and exceptions -/

/-- The code of a cause in SEQSTAT.EXCAUSE (60 R445). -/
def Cause.code : Cause → BitVec 6
  | .excpt n => n.setWidth 6
  | .singleStep => 0x10#6
  | .traceFull => 0x11#6
  | .undefinedInstr => 0x21#6
  | .illegalCombination => 0x22#6
  | .dataProtection _ => 0x23#6
  | .dataMisaligned _ => 0x24#6
  | .unrecoverable => 0x25#6
  | .dataCplbMiss _ => 0x26#6
  | .dataCplbMultiple _ => 0x27#6
  | .watchpoint => 0x28#6
  | .fetchReserved => 0x29#6
  | .instrMisaligned => 0x2A#6
  | .instrProtection => 0x2B#6
  | .instrCplbMiss => 0x2C#6
  | .instrCplbMultiple => 0x2D#6
  | .illegalSupervisor => 0x2E#6

/-- The cause is of the service class: the excepting instruction has completed (60 R445). -/
def Cause.isService : Cause → Bool
  | .excpt _ | .singleStep | .traceFull | .watchpoint => true
  | .undefinedInstr | .illegalCombination | .dataProtection _ | .dataMisaligned _ | .unrecoverable | .dataCplbMiss _
  | .dataCplbMultiple _ | .fetchReserved | .instrMisaligned | .instrProtection | .instrCplbMiss
  | .instrCplbMultiple | .illegalSupervisor => false

/-- The event numbers that can be in service (60 R441). -/
def levels : List Nat := [0, 1, 2, 3, 5, 6, 7, 8, 9, 10, 11, 12, 13, 14, 15]

/-- `cur`: the event of highest priority in service, 16 if there is none (60 R441). -/
def currentLevel (ipend : Word) : Nat := (levels.find? (fun k => bit ipend k)).getD 16

/-- The events the event check can accept (60 R441). -/
def latchable : List (Fin 16) := [2, 5, 6, 7, 8, 9, 10, 11, 12, 13, 14, 15]

/-- The event the event check accepts (60 R441). -/
def State.acceptedEvent (s : State) : Option (Fin 16) :=
  latchable.find? (fun k => bit s.ilat k.val && decide (k.val < currentLevel s.ipend) &&
    (k == 2 || (bit s.imask k.val && !bit s.ipend 4)))

/-- Event entry (60 R440) but for SEQSTAT, with the core out of the Idle state (42 R346). -/
def State.enterEvent (s : State) (k : Fin 16) (ra : Word) : State :=
  { s with
    retn := if k = 2 then ra else s.retn
    retx := if k = 3 then ra else s.retx
    reti := if 5 ≤ k.val then ra else s.reti
    ilat := clearBit s.ilat k.val
    ipend := setBit (if 5 ≤ k.val then setBit s.ipend 4 else s.ipend) k.val
    pc := s.getEvt k
    idle := false }

/-- SEQSTAT with its field EXCAUSE replaced (10 R70, 60 R440). -/
def withExcause (w : Word) (c : BitVec 6) : Word := w.extractLsb' 6 26 ++ c

/-- The return address of an exception (60 R445, R446): the next instruction for the service class, which only
the 16-bit EXCPT raises, and the excepting instruction for the error class. -/
def State.exceptionReturn (s : State) (c : Cause) : Word := if c.isService then s.pc + 2#32 else s.pc

/-- What an exception records beside 60 R440 (60 R445): a data access that raises 0x23, 0x24, 0x26 or 0x27 leaves its address
in DCPLB_FAULT_ADDR and a status in DCPLB_STATUS, and the equivalents of the fetch leave pc in ICPLB_FAULT_ADDR and a status in
ICPLB_STATUS. The spec states no status, so it is a free value. Log entry 39. -/
def State.recordFault (s : State) (c : Cause) : State :=
  match c with
  | .dataProtection a | .dataMisaligned a | .dataCplbMiss a | .dataCplbMultiple a =>
    { s.draw.2 with sys := { s.sys with dcplbStatus := s.draw.1, dcplbFaultAddr := a } }
  | .instrProtection | .instrMisaligned | .instrCplbMiss | .instrCplbMultiple =>
    { s.draw.2 with sys := { s.sys with icplbStatus := s.draw.1, icplbFaultAddr := s.pc } }
  | .excpt _ | .singleStep | .traceFull | .undefinedInstr | .illegalCombination | .unrecoverable | .watchpoint
  | .fetchReserved | .illegalSupervisor => s

/-- Taking an exception (60 R440, R445, R446); while an exception, the NMI or the reset level is in service it is a double
fault (60 R448). The state `s` is the one before the excepting instruction. -/
def takeException (s : State) (c : Cause) : Result :=
  if 3 < currentLevel s.ipend then
    .next { (s.recordFault c).enterEvent 3 (s.exceptionReturn c) with seqstat := withExcause s.seqstat c.code }
  else .fault .doubleFault

/-- Return from the event `cur` to `ra` (60 R443): an odd address is refused. `ipend` is IPEND after the return. -/
def eventReturn (s : State) (ra ipend : Word) : Result :=
  if bit ra 0 then .refused .oddReturn else .next { s with ipend := ipend, pc := ra }

/-- A Supervisor-only instruction (42 R350): in User mode it raises IllegalUseOfSupervisorResource. -/
def supervisorOnly (s : State) (k : Result) : Result :=
  match s.mode with
  | .user => takeException s .illegalSupervisor
  | .supervisor | .emulation => k

/-! ### The end of an instruction -/

/-- `LCk != 0` and the address is `LBk` (42 R330). -/
def LoopRegs.endsAt (l : LoopRegs) (a : Word) : Bool := l.lc != 0#32 && l.lb == a

/-- Loop `k` is active and the current instruction is its last one. -/
def State.atEndOf (s : State) (k : LoopNo) : Bool := (s.getLoop k).endsAt s.pc

/-- The current instruction is the last one of an active loop. -/
def State.atLoopEnd (s : State) : Bool := s.atEndOf .k1 || s.atEndOf .k0

/-- An instruction that must not be the last one of an active loop (42 R332 (c)). -/
def notAtLoopEnd (s : State) (k : Result) : Result := if s.atLoopEnd then .refused .loopCornerCase else k

/-- The loop check of one loop (42 R330): the new counter, and the new address if the loop goes back to its top. -/
def LoopRegs.check (l : LoopRegs) (a : Word) : LoopRegs × Option Word :=
  if l.endsAt a then
    if 2 ≤ l.lc.toNat then ({ l with lc := l.lc - 1#32 }, some l.lt) else ({ l with lc := 0#32 }, none)
  else (l, none)

/-- `loopcheck(a, seq)` (42 R330): loop 1, then loop 0; `a` is the address of the instruction. -/
def State.loopCheck (t : State) (a seq : Word) : State :=
  match t.loop1.check a with
  | (l1, some top) => { t with loop1 := l1, pc := top }
  | (l1, none) =>
    match t.loop0.check a with
    | (l0, some top) => { t with loop1 := l1, loop0 := l0, pc := top }
    | (l0, none) => { t with loop1 := l1, loop0 := l0, pc := seq }

/-- The end of a sequential instruction of `len` bytes (42 R300 step 5, 10 R65). `t` has the instruction's effects,
and its pc is still the instruction's address. -/
def retire (len : Nat) (t : State) : Result :=
  if 2 ^ 32 ≤ t.pc.toNat + len then .refused .pcWrap
  else .next (t.loopCheck t.pc (t.pc + BitVec.ofNat 32 len))

/-- An instruction whose effects may stop it: an exception is taken in the state `s` before it (42 R300 step 4). -/
def finish (s : State) (len : Nat) (x : Res State) : Result :=
  match x with
  | .ok t => retire len t
  | .trap c => takeException s c
  | .fault f => .fault f
  | .refused r => .refused r

/-- A taken control transfer (42 R300 step 5). -/
def State.jumpTo (s : State) (target : Word) : Result := .next { s with pc := target }

/-! ### Memory-mapped registers -/

/-- The core timer counts: TMPWR = TMREN = 1 (60 R460). -/
def CoreTimer.runs (t : CoreTimer) : Bool := bit t.tcntl 0 && bit t.tcntl 1

/-- Load of a modelled MMR (10 R74, R75; 60 R461). -/
def State.readMmr (s : State) (r : CoreMmr) : Word × State :=
  match r with
  | .evt k => (s.getEvt k, s)
  | .imask => (s.imask, s)
  | .ipend => (s.ipend, s)
  | .ilat => (s.ilat, s)
  | .iprio => (s.iprio, s)
  | .tcntl => (s.timer.tcntl, s)
  | .tperiod => (s.timer.tperiod, s)
  | .tscale => (s.timer.tscale, s)
  | .tcount => if s.timer.runs then s.draw else (s.timer.tcount, s)

/-- A write whose bits under `reserved` must be 0 (10 R83). -/
def checkReserved (v reserved : Word) (t : State) : Res State :=
  if v &&& reserved ≠ 0#32 then .refused .reservedBitWrite else .ok t

/-- IMASK after software asks for `v`: bits 4:0 stay 1 (10 R74). -/
def imaskOf (v : Word) : Word := (v &&& 0xFFE0#32) ||| 0x1F#32

/-- ILAT after a write of `v`: a 1 clears bit k, k = 5..15, while IMASK[k] = 0, and no other bit stored has an effect
(10 R74, R82; 60 R431; log entry 17). -/
def ilatCleared (ilat imask v : Word) : Word := ilat &&& ~~~(v &&& ~~~imask &&& 0xFFE0#32)

/-- What a register keeps of a store of `v` where the spec gives it the bits under `field` alone, calls no other bit
reserved, and states no result for a 1 stored there: those other bits become free values. DESIGN CHOICE, log entry 38. -/
def State.storedField (s : State) (field v : Word) : Word × State :=
  if v &&& ~~~field = 0#32 then (v, s) else ((v &&& field) ||| (s.draw.1 &&& ~~~field), s.draw.2)

/-- Store to a modelled MMR (10 R74, R75; 60 R431). TPERIOD, TSCALE and TCOUNT hold all 32 bits stored (60 R461). -/
def State.writeMmr (s : State) (r : CoreMmr) (v : Word) : Res State :=
  match r with
  | .evt k => .ok (s.setEvt k v)
  | .imask => checkReserved v 0xFFFF0000#32 { s with imask := imaskOf v }
  | .ipend => .refused .readOnlyMmr
  | .ilat => .ok { s with ilat := ilatCleared s.ilat s.imask v }
  | .iprio => let x := s.storedField 0xF#32 v; .ok { x.2 with iprio := x.1 }
  | .tcntl => checkReserved v 0xFFFFFFF0#32 { s with timer := { s.timer with tcntl := v } }
  | .tperiod => .ok { s with timer := { s.timer with tperiod := v, tcount := v } }
  | .tscale => .ok { s with timer := { s.timer with tscale := v } }
  | .tcount => .ok { s with timer := { s.timer with tcount := v } }

/-! ### Memory access -/

/-- The width of a data access (20 R134). -/
inductive Size where
  | byte | half | word
  deriving DecidableEq, Repr

/-- The width in bytes. -/
def Size.bytes : Size → Nat
  | .byte => 1 | .half => 2 | .word => 4

/-- The width as an amount of address. -/
def Size.step : Size → Word
  | .byte => 1#32 | .half => 2#32 | .word => 4#32

/-- An MMR access in Supervisor mode (20 R137 (b), (c)): the register it reaches. -/
def mmrTarget (a : Word) (sz : Size) : Res CoreMmr :=
  match CoreMmr.ofAddr a.toNat with
  | none => .refused (.unmodelledMmr (mmrName a.toNat))
  | some r => if sz = .word ∧ a.toNat % 4 = 0 then .ok r else .refused .mmrWidth

/-- Bytes to a word, the lowest address least significant (20 R131). -/
def joinBytes : List Byte → Word
  | [] => 0#32
  | x :: xs => (joinBytes xs <<< 8) ||| x.setWidth 32

/-- The low `n` bytes of a word, least significant first (20 R131). -/
def splitBytes (v : Word) (n : Nat) : List Byte := (List.range n).map (fun k => v.extractLsb' (8 * k) 8)

/-- The first reason why one of the `n` bytes from `a` cannot be accessed. -/
def spanBar (bar : Nat → Option Refusal) (a n : Nat) : Option Refusal := (span a n).findSome? bar

/-- `MemRead(a, n)` (20 R146), zero-extended to a word. The state answered differs from `s` only where the access
took a free value. -/
def memRead (s : State) (a : Word) (sz : Size) : Res (Word × State) :=
  if inMmrSpace a.toNat then
    match s.mode with
    | .user => .trap .illegalSupervisor
    | .supervisor | .emulation => (mmrTarget a sz).bind (fun r => .ok (s.readMmr r))
  else if a.toNat % sz.bytes ≠ 0 then .trap (.dataMisaligned a)
  else
    match spanBar (readBar s.platform) a.toNat sz.bytes with
    | some r => .refused r
    | none =>
      match s.mem.readBytes a.toNat sz.bytes with
      | some bs => .ok (joinBytes bs, s)
      | none => .fault .readOfUnwritten

/-- The store of the low bytes of `v` once every check has passed. -/
def State.putBytes (s : State) (a : Nat) (sz : Size) (v : Word) : State :=
  { s with
    mem := s.mem.writeBytes a (splitBytes v sz.bytes)
    stored := s.stored.insertAll (span a sz.bytes) }

/-- `MemWrite(a, n, v)` (20 R146); `v` is the low bytes of a word. A store to bytes an instruction was fetched from is
refused, as 20 R143 says. Following that rule, and not the wider refusal of 92 D14 for every region that allows fetch, is
the model's choice: DESIGN CHOICE, log entry 9. 20 R146 does not list that refusal among its checks; that it comes last, so
that a misaligned store overlapping such bytes raises 0x24, is the model's choice too: DESIGN CHOICE, log entry 40. -/
def memWrite (s : State) (a : Word) (sz : Size) (v : Word) : Res State :=
  if inMmrSpace a.toNat then
    match s.mode with
    | .user => .trap .illegalSupervisor
    | .supervisor | .emulation => (mmrTarget a sz).bind (fun r => s.writeMmr r v)
  else if a.toNat % sz.bytes ≠ 0 then .trap (.dataMisaligned a)
  else
    match spanBar (writeBar s.platform) a.toNat sz.bytes with
    | some r => .refused r
    | none =>
      if (span a.toNat sz.bytes).any (fun x => s.fetched.contains x) then .refused .storeToCode
      else .ok (s.putBytes a.toNat sz v)

/-- The byte of memory at an address, if it holds a value. -/
def State.byteAt (s : State) (a : Nat) : Option Byte := s.mem.read a

/-! ### Circular addressing -/

/-- `circ_add(i, m)` (43 R400). -/
def circAdd (s : State) (n : Quad) (m : Int) : Res Word :=
  let i := (s.i.get n).toNat
  let b := (s.b.get n).toNat
  let l := (s.l.get n).toNat
  if l = 0 then .ok (s.i.get n + BitVec.ofInt 32 m)
  else if b ≤ i ∧ i < b + l ∧ b + l < 2 ^ 32 ∧ m.natAbs ≤ l then
    let t : Int := i + m
    let t := if 0 ≤ m ∧ (b : Int) + l ≤ t then t - l else t
    let t := if m < 0 ∧ t < b then t + l else t
    .ok (BitVec.ofInt 32 t)
  else .refused .circularCorner

/-! ### The stack -/

/-- Pushes of several words, each below the last (43 R384): the last address written and the state. -/
def pushList (s : State) (a : Word) : List Word → Res (Word × State)
  | [] => .ok (a, s)
  | v :: vs => (memWrite s (a - 4#32) .word v).bind (fun t => pushList t (a - 4#32) vs)

/-- Pops of several registers at rising addresses (43 R385): the address after the last and the state. -/
def popList (s : State) (a : Word) : List DPReg → Res (Word × State)
  | [] => .ok (a, s)
  | r :: rs => (memRead s a .word).bind (fun x => popList (x.2.setDP r x.1) (a + 4#32) rs)

end Sys2Proof.Machine
end

