-- ==== Sys2Proof/Machine/Operands.lean ====
section
/-! DEFINITION. Operand forms: immediates (30 R207), extensions and shifts (41), register lists (43 R384), and every
register of 10 R73 as a source and as a destination (41 R261 to R263). -/

namespace Sys2Proof.Machine

/-! ### Immediates and extensions -/

/-- `sext_32` of a field (30 R207). -/
def sext {n : Nat} (v : BitVec n) : Word := v.signExtend 32

/-- `zext_32` of a field (30 R207). -/
def zext {n : Nat} (v : BitVec n) : Word := v.setWidth 32

/-- `sext_32` of the low half of a word. -/
def sextLow (w : Word) : Word := sext (lowHalf w)

/-- `sext_32` of the low byte of a word. -/
def sextByteOf (w : Word) : Word := sext (lowByte w)

/-- A PC-relative offset (30 R207): signed, in units of two bytes. -/
def branchOffset {n : Nat} (o : BitVec n) : Word := sext o <<< 1

/-- The frame-pointer offset of 43 R372: `(offset - 32) * 4`. -/
def framePointerOffset (o : BitVec 5) : Word := zext o * 4#32 - 128#32

/-! ### Shifts by any amount (41 R242 to R244) -/

/-- Arithmetic shift right; from 32 on, copies of the sign. -/
def asr (x : Word) (n : Nat) : Word := x.sshiftRight (min n 31)

/-- Logical shift right; from 32 on, zero. -/
def lsr (x : Word) (n : Nat) : Word := if n ≤ 31 then x >>> n else 0#32

/-- Logical shift left; from 32 on, zero. -/
def lsl (x : Word) (n : Nat) : Word := if n ≤ 31 then x <<< n else 0#32

/-! ### Register lists -/

/-- `R[dr]` to `R7`, rising (43 R384). -/
def dregsFrom : DReg → List DReg
  | .r0 => [.r0, .r1, .r2, .r3, .r4, .r5, .r6, .r7]
  | .r1 => [.r1, .r2, .r3, .r4, .r5, .r6, .r7]
  | .r2 => [.r2, .r3, .r4, .r5, .r6, .r7]
  | .r3 => [.r3, .r4, .r5, .r6, .r7]
  | .r4 => [.r4, .r5, .r6, .r7]
  | .r5 => [.r5, .r6, .r7]
  | .r6 => [.r6, .r7]
  | .r7 => [.r7]

/-- `P[pr]` to `P5`, rising (43 R384); none for SP and FP, which 30 R179 excludes. -/
def pregsFrom : PReg → List PReg
  | .p0 => [.p0, .p1, .p2, .p3, .p4, .p5]
  | .p1 => [.p1, .p2, .p3, .p4, .p5]
  | .p2 => [.p2, .p3, .p4, .p5]
  | .p3 => [.p3, .p4, .p5]
  | .p4 => [.p4, .p5]
  | .p5 => [.p5]
  | .sp | .fp => []

/-- The registers of a push multiple in the order of 43 R384, data registers first. -/
def multRegs (ds : List DReg) (ps : List PReg) : List DPReg := ds.map .d ++ ps.map .p

/-! ### Every register as a source and as a destination -/

/-- A register of group 7, which only Supervisor mode may name (41 R261, 60 R426). -/
def regIsSupervisor : Reg → Bool
  | .usp | .seqstat | .syscfg | .reti | .retx | .retn | .rete | .emudat => true
  | .gen _ | .a0x | .a0w | .a1x | .a1w | .astat | .rets | .lc _ | .lt _ | .lb _ | .cycles | .cycles2 => false

/-- Use of a register: a group-7 register in User mode raises IllegalUseOfSupervisorResource (41 R261, 43 R382). -/
def checkPrivilege (s : State) (r : Reg) : Res Unit :=
  if regIsSupervisor r ∧ s.mode = .user then .trap .illegalSupervisor else .ok ()

/-- `An.W` (41 R262). -/
def accW (a : Acc) : Word := a.extractLsb' 0 32

/-- `An.X`, sign-extended (41 R262). -/
def accX (a : Acc) : Word := sext (a.extractLsb' 32 8)

/-- `An` with the part W replaced (41 R262). -/
def accSetW (a : Acc) (v : Word) : Acc := a.extractLsb' 32 8 ++ v

/-- `An` with the part X replaced (41 R262). -/
def accSetX (a : Acc) (v : Word) : Acc := lowByte v ++ a.extractLsb' 0 32

/-- A register as a source (41 R262, R263), and the state, which differs only where a free value was taken. -/
def readReg (s : State) (r : Reg) : Res (Word × State) :=
  match r with
  | .gen g => .ok (s.getGen g, s)
  | .a0x => .ok (accX s.a0, s)
  | .a0w => .ok (accW s.a0, s)
  | .a1x => .ok (accX s.a1, s)
  | .a1w => .ok (accW s.a1, s)
  | .astat => .ok (s.astat.toWord, s)
  | .rets => .ok (s.rets, s)
  | .lc k => .ok ((s.getLoop k).lc, s)
  | .lt k => .ok ((s.getLoop k).lt, s)
  | .lb k => .ok ((s.getLoop k).lb, s)
  | .cycles | .cycles2 => .ok s.draw
  | .usp => .ok (s.usp, s)
  | .seqstat => .ok (s.seqstat, s)
  | .syscfg => .ok (s.syscfg, s)
  | .reti => .ok (s.reti, s)
  | .retx => .ok (s.retx, s)
  | .retn => .ok (s.retn, s)
  | .rete => .ok (s.rete, s)
  | .emudat => .refused .emudat

/-- A write to a register of loop `k`, which the last instruction of that loop must not make while it is active
(42 R332 (d)). -/
def writeLoop (s : State) (k : LoopNo) (l : LoopRegs) : Res State :=
  if s.atEndOf k then .refused .loopCornerCase else .ok (s.setLoop k l)

/-- A loop address must be even (41 R263). -/
def evenLoopAddress (v : Word) (x : Res State) : Res State := if bit v 0 then .refused .oddLoopAddress else x

/-- The values SYSCFG accepts (10 R71). -/
def syscfgAccepts (v : Word) : Bool := v == 0x30#32 || v == 0x32#32

/-- A register as a destination (41 R262, R263). -/
def writeReg (s : State) (r : Reg) (v : Word) : Res State :=
  match r with
  | .gen g => .ok (s.setGen g v)
  | .a0x => .ok { s with a0 := accSetX s.a0 v }
  | .a0w => .ok { s with a0 := accSetW s.a0 v }
  | .a1x => .ok { s with a1 := accSetX s.a1 v }
  | .a1w => .ok { s with a1 := accSetW s.a1 v }
  | .astat => (Astat.ofWord v).bind (fun a => .ok { s with astat := a })
  | .rets => .ok { s with rets := v }
  | .lc k => writeLoop s k { s.getLoop k with lc := v }
  | .lt k => evenLoopAddress v (writeLoop s k { s.getLoop k with lt := v })
  | .lb k => evenLoopAddress v (writeLoop s k { s.getLoop k with lb := v })
  | .cycles | .cycles2 => .ok s
  | .usp => .ok { s with usp := v }
  | .seqstat => .refused .seqstatWrite
  | .syscfg => if syscfgAccepts v then .ok { s with syscfg := v } else .refused .syscfgWrite
  | .reti => .ok { s with reti := v }
  | .retx => .ok { s with retx := v }
  | .retn => .ok { s with retn := v }
  | .rete => .ok { s with rete := v }
  | .emudat => .refused .emudat

end Sys2Proof.Machine
end

