-- ==== Sys2Proof/Machine/Alu.lean ====
section
/-! DEFINITION. The arithmetic, logic and shift instructions on data registers (41 R230 to R234,
R238, R239, R242 to R259). -/

namespace Sys2Proof.Machine

/-- A data-register result and the flags it leaves. -/
def aluResult (s : State) (rd : DReg) (v : Word) (flags : Astat) : Result :=
  retire 2 { s.setD rd v with astat := flags }

/-- A logical result (41 R225 `flags_logical`). -/
def logicalResult (s : State) (rd : DReg) (v : Word) : Result := aluResult s rd v (s.astat.flagsLogical v)

/-- A shift result (41 R242 to R244, R252 to R254). -/
def shiftResult (s : State) (rd : DReg) (v : Word) : Result := aluResult s rd v (s.astat.flagsShift v)

/-- A sum of two words, with its flags (41 R225 `flags_add`). -/
def addResult (s : State) (rd : DReg) (x y : Word) : Result := aluResult s rd (x + y) (s.astat.flagsAdd x y (x + y))

/-! ### Three operands (format COMP3op) -/

/-- `Rd = Rs0 + Rs1` (41 R230). -/
def execAddD (rd rs0 rs1 : DReg) (s : State) : Result :=
  addResult s rd (s.getD rs0) (s.getD rs1)

/-- `Rd = Rs0 - Rs1` (41 R231). -/
def execSubD (rd rs0 rs1 : DReg) (s : State) : Result :=
  aluResult s rd (s.getD rs0 - s.getD rs1) (s.astat.flagsSub (s.getD rs0) (s.getD rs1) (s.getD rs0 - s.getD rs1))

/-- `Rd = Rs0 & Rs1` (41 R232). -/
def execAndD (rd rs0 rs1 : DReg) (s : State) : Result :=
  logicalResult s rd (s.getD rs0 &&& s.getD rs1)

/-- `Rd = Rs0 | Rs1` (41 R233). -/
def execOrD (rd rs0 rs1 : DReg) (s : State) : Result :=
  logicalResult s rd (s.getD rs0 ||| s.getD rs1)

/-- `Rd = Rs0 ^ Rs1` (41 R234). -/
def execXorD (rd rs0 rs1 : DReg) (s : State) : Result :=
  logicalResult s rd (s.getD rs0 ^^^ s.getD rs1)

/-! ### Immediates (format COMPI2opD) -/

/-- `Rd = imm7 (X)` (41 R238). -/
def execMovImmD (rd : DReg) (imm : BitVec 7) (s : State) : Result :=
  retire 2 (s.setD rd (sext imm))

/-- `Rd += imm7` (41 R239). -/
def execAddImmD (rd : DReg) (imm : BitVec 7) (s : State) : Result :=
  addResult s rd (s.getD rd) (sext imm)

/-! ### Two operands (format ALU2op) -/

/-- `Rd >>>= Rs` (41 R242). -/
def execAsrD (rd rs : DReg) (s : State) : Result :=
  shiftResult s rd (asr (s.getD rd) (s.getD rs).toNat)

/-- `Rd >>= Rs` (41 R243). -/
def execLsrD (rd rs : DReg) (s : State) : Result :=
  shiftResult s rd (lsr (s.getD rd) (s.getD rs).toNat)

/-- `Rd <<= Rs` (41 R244). -/
def execLslD (rd rs : DReg) (s : State) : Result :=
  shiftResult s rd (lsl (s.getD rd) (s.getD rs).toNat)

/-- `Rd *= Rs` (41 R245): no flag changes. -/
def execMulD (rd rs : DReg) (s : State) : Result :=
  retire 2 (s.setD rd (s.getD rd * s.getD rs))

/-- `Rd = Rs.L (X)` (41 R246). -/
def execSextHalf (rd rs : DReg) (s : State) : Result :=
  logicalResult s rd (sextLow (s.getD rs))

/-- `Rd = Rs.L (Z)` (41 R247). -/
def execZextHalf (rd rs : DReg) (s : State) : Result :=
  logicalResult s rd (zext (lowHalf (s.getD rs)))

/-- `Rd = Rs.B (X)` (41 R248). -/
def execSextByte (rd rs : DReg) (s : State) : Result :=
  logicalResult s rd (sextByteOf (s.getD rs))

/-- `Rd = Rs.B (Z)` (41 R249). -/
def execZextByte (rd rs : DReg) (s : State) : Result :=
  logicalResult s rd (zext (lowByte (s.getD rs)))

/-- `Rd = -Rs` (41 R250). -/
def execNegD (rd rs : DReg) (s : State) : Result :=
  aluResult s rd (0#32 - s.getD rs) (s.astat.flagsNeg (s.getD rs) (0#32 - s.getD rs))

/-- `Rd = ~Rs` (41 R251). -/
def execNotD (rd rs : DReg) (s : State) : Result :=
  logicalResult s rd (~~~(s.getD rs))

/-! ### Bit number or shift amount in the instruction (format LOGI2op) -/

/-- `CC = !BITTST (Rd, uimm5)` (41 R256). -/
def execBittstNot (rd : DReg) (imm : BitVec 5) (s : State) : Result :=
  retire 2 { s with astat := s.astat.putCc (!bit (s.getD rd) imm.toNat) }

/-- `CC = BITTST (Rd, uimm5)` (41 R255). -/
def execBittst (rd : DReg) (imm : BitVec 5) (s : State) : Result :=
  retire 2 { s with astat := s.astat.putCc (bit (s.getD rd) imm.toNat) }

/-- `BITSET (Rd, uimm5)` (41 R257). -/
def execBitset (rd : DReg) (imm : BitVec 5) (s : State) : Result :=
  logicalResult s rd (setBit (s.getD rd) imm.toNat)

/-- `BITTGL (Rd, uimm5)` (41 R259). -/
def execBittgl (rd : DReg) (imm : BitVec 5) (s : State) : Result :=
  logicalResult s rd (s.getD rd ^^^ (1#32 <<< imm.toNat))

/-- `BITCLR (Rd, uimm5)` (41 R258). -/
def execBitclr (rd : DReg) (imm : BitVec 5) (s : State) : Result :=
  logicalResult s rd (clearBit (s.getD rd) imm.toNat)

/-- `Rd >>>= uimm5` (41 R252). -/
def execAsrImm (rd : DReg) (imm : BitVec 5) (s : State) : Result :=
  shiftResult s rd (asr (s.getD rd) imm.toNat)

/-- `Rd >>= uimm5` (41 R253). -/
def execLsrImm (rd : DReg) (imm : BitVec 5) (s : State) : Result :=
  shiftResult s rd (lsr (s.getD rd) imm.toNat)

/-- `Rd <<= uimm5` (41 R254). -/
def execLslImm (rd : DReg) (imm : BitVec 5) (s : State) : Result :=
  shiftResult s rd (lsl (s.getD rd) imm.toNat)

end Sys2Proof.Machine
end

