-- ==== Sys2Proof/Machine/Branch.lean ====
section
/-! DEFINITION. Jumps, subroutines and hardware-loop setup (42 R302 to R332). -/

namespace Sys2Proof.Machine

/-! ### Jumps -/

/-- `JUMP.S label` (42 R302). -/
def execJumpShort (offset : BitVec 12) (s : State) : Result :=
  notAtLoopEnd s (s.jumpTo (s.pc + branchOffset offset))

/-- `JUMP.L label` (42 R303). -/
def execJumpLong (offset : BitVec 24) (s : State) : Result :=
  notAtLoopEnd s (s.jumpTo (s.pc + branchOffset offset))

/-- `JUMP (Pn)` (42 R304). -/
def execJumpReg (pn : PReg) (s : State) : Result :=
  notAtLoopEnd s (s.jumpTo (s.getP pn))

/-- `JUMP (PC + Pn)` (42 R306). -/
def execJumpPcReg (pn : PReg) (s : State) : Result :=
  notAtLoopEnd s (s.jumpTo (s.pc + s.getP pn))

/-- A conditional jump (42 R305): a taken control transfer, or a sequential instruction. -/
def jumpIf (s : State) (taken : Bool) (offset : BitVec 10) : Result :=
  notAtLoopEnd s (if taken then s.jumpTo (s.pc + branchOffset offset) else retire 2 s)

/-- `IF !CC JUMP label [(bp)]` (42 R305): the hint bit has no effect (30 R211). -/
def execJumpIfNotCc (_bp : Bool) (offset : BitVec 10) (s : State) : Result :=
  jumpIf s (!s.astat.cc) offset

/-- `IF CC JUMP label [(bp)]` (42 R305): the hint bit has no effect (30 R211). -/
def execJumpIfCc (_bp : Bool) (offset : BitVec 10) (s : State) : Result :=
  jumpIf s s.astat.cc offset

/-! ### Subroutines -/

/-- A call: RETS gets the address of the next sequential instruction (42 R310 to R312). -/
def callTo (s : State) (len : Word) (target : Word) : Result :=
  notAtLoopEnd s ({ s with rets := s.pc + len }.jumpTo target)

/-- `CALL label` (42 R310). -/
def execCallLong (offset : BitVec 24) (s : State) : Result :=
  callTo s 4#32 (s.pc + branchOffset offset)

/-- `CALL (Pn)` (42 R311). -/
def execCallReg (pn : PReg) (s : State) : Result :=
  callTo s 2#32 (s.getP pn)

/-- `CALL (PC + Pn)` (42 R312). -/
def execCallPcReg (pn : PReg) (s : State) : Result :=
  callTo s 2#32 (s.pc + s.getP pn)

/-- `RTS` (42 R313). -/
def execRts (s : State) : Result :=
  notAtLoopEnd s (s.jumpTo s.rets)

/-! ### Loop setup (42 R331, R332) -/

/-- The addresses of a loop (42 R331). -/
def State.setLoopAddresses (s : State) (c : LoopNo) (soffset : BitVec 4) (eoffset : BitVec 10) : State :=
  s.setLoop c { s.getLoop c with lt := s.pc + (zext soffset <<< 1), lb := s.pc + (zext eoffset <<< 1) }

/-- An LSETUP: the cases (a), (b) and (c) of 42 R332 are refused. `count` is the value loaded into LCc, if one is. -/
def loopSetup (s : State) (c : LoopNo) (soffset : BitVec 4) (eoffset : BitVec 10) (count : Option Word) : Result :=
  if soffset = 0#4 ∨ eoffset.toNat < soffset.toNat ∨ count = some 0#32 ∨ s.atLoopEnd then .refused .loopCornerCase
  else
    let t := s.setLoopAddresses c soffset eoffset
    match count with
    | some n => retire 4 (t.setLoop c { t.getLoop c with lc := n })
    | none => retire 4 t

/-- `LSETUP (top, bottom) LCc` (42 R331). -/
def execLsetup (c : LoopNo) (soffset : BitVec 4) (eoffset : BitVec 10) (s : State) : Result :=
  loopSetup s c soffset eoffset none

/-- `LSETUP (top, bottom) LCc = Pp` (42 R331). -/
def execLsetupP (c : LoopNo) (soffset : BitVec 4) (pp : PReg) (eoffset : BitVec 10) (s : State) : Result :=
  loopSetup s c soffset eoffset (some (s.getP pp))

/-- `LSETUP (top, bottom) LCc = Pp >> 1` (42 R331). -/
def execLsetupPHalf (c : LoopNo) (soffset : BitVec 4) (pp : PReg) (eoffset : BitVec 10) (s : State) : Result :=
  loopSetup s c soffset eoffset (some (s.getP pp >>> 1))

end Sys2Proof.Machine
end

