-- ==== Sys2Proof/Machine/Cache.lean ====
section
/-! DEFINITION. Cache control (43 R410 to R413). -/

namespace Sys2Proof.Machine

/-- A cache-control instruction: caches are off (20 R144), so only the pointer of the `++` form moves, by one line. -/
def cacheControl (s : State) (post : Bool) (pp : PReg) : Result :=
  retire 2 (if post then s.setP pp (s.getP pp + Config.cacheLine) else s)

/-- `PREFETCH [Pp]` and `PREFETCH [Pp++]` (43 R410). -/
def execPrefetch (post : Bool) (pp : PReg) (s : State) : Result :=
  cacheControl s post pp

/-- `FLUSHINV [Pp]` and `FLUSHINV [Pp++]` (43 R411). -/
def execFlushinv (post : Bool) (pp : PReg) (s : State) : Result :=
  cacheControl s post pp

/-- `FLUSH [Pp]` and `FLUSH [Pp++]` (43 R412). -/
def execFlush (post : Bool) (pp : PReg) (s : State) : Result :=
  cacheControl s post pp

/-- `IFLUSH [Pp]` and `IFLUSH [Pp++]` (43 R413). -/
def execIflush (post : Bool) (pp : PReg) (s : State) : Result :=
  cacheControl s post pp

end Sys2Proof.Machine
end

