-- ==== Sys2Proof/Machine/CondCode.lean ====
section
/-! DEFINITION. The condition code: moves to and from ASTAT bits and data registers, and the compares
(41 R275 to R285). -/

namespace Sys2Proof.Machine

/-- An instruction that changes only flags. -/
def flagResult (s : State) (flags : Astat) : Result := retire 2 { s with astat := flags }

/-! ### CC and one ASTAT bit (format CC2stat, 41 R275) -/

/-- `CC = bit` (41 R275). -/
def execCcSetBit (n : AstatBit) (s : State) : Result :=
  flagResult s (s.astat.putCc (s.astat.get n))

/-- `CC |= bit` (41 R275). -/
def execCcOrBit (n : AstatBit) (s : State) : Result :=
  flagResult s (s.astat.putCc (s.astat.cc || s.astat.get n))

/-- `CC &= bit` (41 R275). -/
def execCcAndBit (n : AstatBit) (s : State) : Result :=
  flagResult s (s.astat.putCc (s.astat.cc && s.astat.get n))

/-- `CC ^= bit` (41 R275). -/
def execCcXorBit (n : AstatBit) (s : State) : Result :=
  flagResult s (s.astat.putCc (s.astat.cc ^^ s.astat.get n))

/-- `bit = CC` (41 R275). -/
def execBitSetCc (n : AstatBit) (s : State) : Result :=
  flagResult s (s.astat.put n (s.astat.cc))

/-- `bit |= CC` (41 R275). -/
def execBitOrCc (n : AstatBit) (s : State) : Result :=
  flagResult s (s.astat.put n (s.astat.get n || s.astat.cc))

/-- `bit &= CC` (41 R275). -/
def execBitAndCc (n : AstatBit) (s : State) : Result :=
  flagResult s (s.astat.put n (s.astat.get n && s.astat.cc))

/-- `bit ^= CC` (41 R275). -/
def execBitXorCc (n : AstatBit) (s : State) : Result :=
  flagResult s (s.astat.put n (s.astat.get n ^^ s.astat.cc))

/-! ### Compares (format CCflag) -/

/-- A compare of data registers, signed: `c` is its condition (41 R276 to R278). -/
def compareD (s : State) (c : Word → Word → Bool) (x y : Word) : Result :=
  flagResult s (s.astat.flagsCompare (c x y) x y)

/-- A compare of data registers, unsigned (41 R279, R280). -/
def compareUD (s : State) (c : Word → Word → Bool) (x y : Word) : Result :=
  flagResult s (s.astat.flagsCompareU (c x y) x y)

/-- A compare of pointer registers: only CC (41 R281). -/
def compareP (s : State) (c : Word → Word → Bool) (x y : Word) : Result := flagResult s (s.astat.putCc (c x y))

/-- A compare of the accumulators (41 R282). -/
def compareAcc (s : State) (c : Acc → Acc → Bool) : Result :=
  flagResult s (s.astat.flagsCompareAcc (c s.a0 s.a1) s.a0 s.a1)

/-- `CC = Rx == Ry` (41 R276). -/
def execCmpEqD (rx ry : DReg) (s : State) : Result :=
  compareD s (· == ·) (s.getD rx) (s.getD ry)

/-- `CC = Rx == imm3` (41 R276). -/
def execCmpEqDImm (rx : DReg) (imm : BitVec 3) (s : State) : Result :=
  compareD s (· == ·) (s.getD rx) (sext imm)

/-- `CC = Px == Py` (41 R281). -/
def execCmpEqP (px py : PReg) (s : State) : Result :=
  compareP s (· == ·) (s.getP px) (s.getP py)

/-- `CC = Px == imm3` (41 R281). -/
def execCmpEqPImm (px : PReg) (imm : BitVec 3) (s : State) : Result :=
  compareP s (· == ·) (s.getP px) (sext imm)

/-- `CC = Rx < Ry` (41 R277). -/
def execCmpLtD (rx ry : DReg) (s : State) : Result :=
  compareD s BitVec.slt (s.getD rx) (s.getD ry)

/-- `CC = Rx < imm3` (41 R277). -/
def execCmpLtDImm (rx : DReg) (imm : BitVec 3) (s : State) : Result :=
  compareD s BitVec.slt (s.getD rx) (sext imm)

/-- `CC = Px < Py` (41 R281). -/
def execCmpLtP (px py : PReg) (s : State) : Result :=
  compareP s BitVec.slt (s.getP px) (s.getP py)

/-- `CC = Px < imm3` (41 R281). -/
def execCmpLtPImm (px : PReg) (imm : BitVec 3) (s : State) : Result :=
  compareP s BitVec.slt (s.getP px) (sext imm)

/-- `CC = Rx <= Ry` (41 R278). -/
def execCmpLeD (rx ry : DReg) (s : State) : Result :=
  compareD s BitVec.sle (s.getD rx) (s.getD ry)

/-- `CC = Rx <= imm3` (41 R278). -/
def execCmpLeDImm (rx : DReg) (imm : BitVec 3) (s : State) : Result :=
  compareD s BitVec.sle (s.getD rx) (sext imm)

/-- `CC = Px <= Py` (41 R281). -/
def execCmpLeP (px py : PReg) (s : State) : Result :=
  compareP s BitVec.sle (s.getP px) (s.getP py)

/-- `CC = Px <= imm3` (41 R281). -/
def execCmpLePImm (px : PReg) (imm : BitVec 3) (s : State) : Result :=
  compareP s BitVec.sle (s.getP px) (sext imm)

/-- `CC = Rx < Ry (IU)` (41 R279). -/
def execCmpLtuD (rx ry : DReg) (s : State) : Result :=
  compareUD s BitVec.ult (s.getD rx) (s.getD ry)

/-- `CC = Rx < uimm3 (IU)` (41 R279). -/
def execCmpLtuDImm (rx : DReg) (imm : BitVec 3) (s : State) : Result :=
  compareUD s BitVec.ult (s.getD rx) (zext imm)

/-- `CC = Px < Py (IU)` (41 R281). -/
def execCmpLtuP (px py : PReg) (s : State) : Result :=
  compareP s BitVec.ult (s.getP px) (s.getP py)

/-- `CC = Px < uimm3 (IU)` (41 R281). -/
def execCmpLtuPImm (px : PReg) (imm : BitVec 3) (s : State) : Result :=
  compareP s BitVec.ult (s.getP px) (zext imm)

/-- `CC = Rx <= Ry (IU)` (41 R280). -/
def execCmpLeuD (rx ry : DReg) (s : State) : Result :=
  compareUD s BitVec.ule (s.getD rx) (s.getD ry)

/-- `CC = Rx <= uimm3 (IU)` (41 R280). -/
def execCmpLeuDImm (rx : DReg) (imm : BitVec 3) (s : State) : Result :=
  compareUD s BitVec.ule (s.getD rx) (zext imm)

/-- `CC = Px <= Py (IU)` (41 R281). -/
def execCmpLeuP (px py : PReg) (s : State) : Result :=
  compareP s BitVec.ule (s.getP px) (s.getP py)

/-- `CC = Px <= uimm3 (IU)` (41 R281). -/
def execCmpLeuPImm (px : PReg) (imm : BitVec 3) (s : State) : Result :=
  compareP s BitVec.ule (s.getP px) (zext imm)

/-- `CC = A0 == A1` (41 R282). -/
def execCmpEqAcc (s : State) : Result :=
  compareAcc s (· == ·)

/-- `CC = A0 < A1` (41 R282). -/
def execCmpLtAcc (s : State) : Result :=
  compareAcc s BitVec.slt

/-- `CC = A0 <= A1` (41 R282). -/
def execCmpLeAcc (s : State) : Result :=
  compareAcc s BitVec.sle

/-! ### CC and a data register (format CC2dreg) -/

/-- `Rd = CC` (41 R283). -/
def execCcToD (rd : DReg) (s : State) : Result :=
  retire 2 (s.setD rd (if s.astat.cc then 1#32 else 0#32))

/-- `CC = Rs` (41 R284). -/
def execDToCc (rs : DReg) (s : State) : Result :=
  flagResult s (s.astat.putCc (s.getD rs != 0#32))

/-- `CC = !CC` (41 R285). -/
def execNotCc (s : State) : Result :=
  flagResult s (s.astat.putCc (!s.astat.cc))

end Sys2Proof.Machine
end

