-- ==== Sys2Proof/Machine/Dag.lean ====
section
/-! DEFINITION. The index registers: modification, loads and stores (43 R400 to R406). -/

namespace Sys2Proof.Machine

/-- A modification of an index register by `m` (43 R402, R403). -/
def modifyIndex (s : State) (i : Quad) (m : Int) : Result :=
  finish s 2 ((circAdd s i m).bind fun v => .ok (s.setI i v))

/-- `Ii += Mm` (43 R402). -/
def execAddIM (i m : Quad) (s : State) : Result :=
  modifyIndex s i (s.m.get m).toInt

/-- `Ii -= Mm` (43 R402). -/
def execSubIM (i m : Quad) (s : State) : Result :=
  modifyIndex s i (-(s.m.get m).toInt)

/-- `Ii += 2` (43 R403). -/
def execAddI2 (i : Quad) (s : State) : Result :=
  modifyIndex s i 2

/-- `Ii -= 2` (43 R403). -/
def execSubI2 (i : Quad) (s : State) : Result :=
  modifyIndex s i (-2)

/-- `Ii += 4` (43 R403). -/
def execAddI4 (i : Quad) (s : State) : Result :=
  modifyIndex s i 4

/-- `Ii -= 4` (43 R403). -/
def execSubI4 (i : Quad) (s : State) : Result :=
  modifyIndex s i (-4)

/-! ### Loads and stores through an index register (43 R404 to R406)

The address is the old index; the index then moves by `m`, where it moves at all. -/

/-- The index after the access. -/
def moveIndex (s t : State) (i : Quad) (m : Option Int) : Res State :=
  match m with
  | some m => (circAdd s i m).bind fun v => .ok (t.setI i v)
  | none => .ok t

/-- A load of a data register; `put` makes its new value from the old one and the loaded one. -/
def loadI (s : State) (i : Quad) (m : Option Int) (sz : Size) (put : Word → Word → Word) (rr : DReg) : Result :=
  finish s 2 ((memRead s (s.i.get i) sz).bind fun x => moveIndex s (x.2.setD rr (put (s.getD rr) x.1)) i m)

/-- A store of `v`. -/
def storeI (s : State) (i : Quad) (m : Option Int) (sz : Size) (v : Word) : Result :=
  finish s 2 ((memWrite s (s.i.get i) sz v).bind fun t => moveIndex s t i m)

/-- The loaded word replaces the register. -/
def putWord (_old v : Word) : Word := v

/-- The loaded half word replaces the low half. -/
def putLow (old v : Word) : Word := withLow old (lowHalf v)

/-- The loaded half word replaces the high half. -/
def putHigh (old v : Word) : Word := withHigh old (lowHalf v)

/-- `Rr = [Ii++]` (43 R404). -/
def execLdIInc (rr : DReg) (i : Quad) (s : State) : Result :=
  loadI s i (some 4) .word putWord rr

/-- `Rr.L = W[Ii++]` (43 R405). -/
def execLdILoInc (rr : DReg) (i : Quad) (s : State) : Result :=
  loadI s i (some 2) .half putLow rr

/-- `Rr.H = W[Ii++]` (43 R405). -/
def execLdIHiInc (rr : DReg) (i : Quad) (s : State) : Result :=
  loadI s i (some 2) .half putHigh rr

/-- `[Ii++] = Rr` (43 R404). -/
def execStIInc (rr : DReg) (i : Quad) (s : State) : Result :=
  storeI s i (some 4) .word (s.getD rr)

/-- `W[Ii++] = Rr.L` (43 R405). -/
def execStILoInc (rr : DReg) (i : Quad) (s : State) : Result :=
  storeI s i (some 2) .half (s.getD rr)

/-- `W[Ii++] = Rr.H` (43 R405). -/
def execStIHiInc (rr : DReg) (i : Quad) (s : State) : Result :=
  storeI s i (some 2) .half (zext (highHalf (s.getD rr)))

/-- `Rr = [Ii--]` (43 R404). -/
def execLdIDec (rr : DReg) (i : Quad) (s : State) : Result :=
  loadI s i (some (-4)) .word putWord rr

/-- `Rr.L = W[Ii--]` (43 R405). -/
def execLdILoDec (rr : DReg) (i : Quad) (s : State) : Result :=
  loadI s i (some (-2)) .half putLow rr

/-- `Rr.H = W[Ii--]` (43 R405). -/
def execLdIHiDec (rr : DReg) (i : Quad) (s : State) : Result :=
  loadI s i (some (-2)) .half putHigh rr

/-- `[Ii--] = Rr` (43 R404). -/
def execStIDec (rr : DReg) (i : Quad) (s : State) : Result :=
  storeI s i (some (-4)) .word (s.getD rr)

/-- `W[Ii--] = Rr.L` (43 R405). -/
def execStILoDec (rr : DReg) (i : Quad) (s : State) : Result :=
  storeI s i (some (-2)) .half (s.getD rr)

/-- `W[Ii--] = Rr.H` (43 R405). -/
def execStIHiDec (rr : DReg) (i : Quad) (s : State) : Result :=
  storeI s i (some (-2)) .half (zext (highHalf (s.getD rr)))

/-- `Rr = [Ii]` (43 R404). -/
def execLdIInd (rr : DReg) (i : Quad) (s : State) : Result :=
  loadI s i none .word putWord rr

/-- `Rr.L = W[Ii]` (43 R405). -/
def execLdILoInd (rr : DReg) (i : Quad) (s : State) : Result :=
  loadI s i none .half putLow rr

/-- `Rr.H = W[Ii]` (43 R405). -/
def execLdIHiInd (rr : DReg) (i : Quad) (s : State) : Result :=
  loadI s i none .half putHigh rr

/-- `[Ii] = Rr` (43 R404). -/
def execStIInd (rr : DReg) (i : Quad) (s : State) : Result :=
  storeI s i none .word (s.getD rr)

/-- `W[Ii] = Rr.L` (43 R405). -/
def execStILoInd (rr : DReg) (i : Quad) (s : State) : Result :=
  storeI s i none .half (s.getD rr)

/-- `W[Ii] = Rr.H` (43 R405). -/
def execStIHiInd (rr : DReg) (i : Quad) (s : State) : Result :=
  storeI s i none .half (zext (highHalf (s.getD rr)))

/-- `Rr = [Ii ++ Mm]` (43 R406). -/
def execLdIMod (rr : DReg) (i m : Quad) (s : State) : Result :=
  loadI s i (some (s.m.get m).toInt) .word putWord rr

/-- `[Ii ++ Mm] = Rr` (43 R406). -/
def execStIMod (rr : DReg) (i m : Quad) (s : State) : Result :=
  storeI s i (some (s.m.get m).toInt) .word (s.getD rr)

end Sys2Proof.Machine
end

