-- ==== Sys2Proof/Machine/Event.lean ====
section
/-! DEFINITION. Event returns, event generation, interrupt masking, synchronisation, idle, TESTSET (42 R335 to R350). -/

namespace Sys2Proof.Machine

/-- `RTI` (42 R335, 60 R443): from the reset level or an interrupt. -/
def execRti (s : State) : Result :=
  supervisorOnly s (notAtLoopEnd s
    (let cur := currentLevel s.ipend
     if cur = 1 ∨ (5 ≤ cur ∧ cur ≤ 15) then eventReturn s s.reti (clearBit (clearBit s.ipend cur) 4)
     else .refused .returnLevel))

/-- `RTX` (42 R336, 60 R443): from an exception. -/
def execRtx (s : State) : Result :=
  supervisorOnly s (notAtLoopEnd s
    (if currentLevel s.ipend = 3 then eventReturn s s.retx (clearBit s.ipend 3) else .refused .returnLevel))

/-- `RTN` (42 R337, 60 R443): from the NMI. -/
def execRtn (s : State) : Result :=
  supervisorOnly s (notAtLoopEnd s
    (if currentLevel s.ipend = 2 then eventReturn s s.retn (clearBit s.ipend 2) else .refused .returnLevel))

/-- `RTE` (42 R338): in Emulation mode the return the rule describes; elsewhere refused. Log entry 15. -/
def execRte (s : State) : Result :=
  supervisorOnly s (notAtLoopEnd s
    (match s.mode with
     | .emulation => eventReturn s s.rete (clearBit s.ipend 0)
     | .supervisor | .user => .refused .emulation))

/-- `RAISE n` (42 R340): latches the event; 1 asks for a reset (70 R506) and 0, 3, 4 name none. -/
def execRaise (n : BitVec 4) (s : State) : Result :=
  supervisorOnly s (notAtLoopEnd s
    (if n = 1#4 then .refused .softwareReset
     else if n = 0#4 ∨ n = 3#4 ∨ n = 4#4 then .refused .raiseNumber
     else retire 2 { s with ilat := setBit s.ilat n.toNat }))

/-- `EXCPT n` (42 R341): takes the service exception n. -/
def execExcpt (n : BitVec 4) (s : State) : Result :=
  notAtLoopEnd s (takeException s (.excpt n))

/-- `CLI Rd` (42 R342). -/
def execCli (rd : DReg) (s : State) : Result :=
  supervisorOnly s (notAtLoopEnd s (retire 2 { s.setD rd s.imask with imask := imaskOf 0#32 }))

/-- `STI Rs` (42 R343). -/
def execSti (rd : DReg) (s : State) : Result :=
  supervisorOnly s (notAtLoopEnd s (finish s 2
    (checkReserved (s.getD rd) 0xFFFF0000#32 { s with imask := imaskOf (s.getD rd) })))

/-- `IDLE` (42 R346): the core is idle until the event check accepts an event. -/
def execIdle (s : State) : Result :=
  supervisorOnly s (notAtLoopEnd s (retire 2 { s with idle := true }))

/-- `CSYNC` (42 R344): no effect on one core (20 R141). -/
def execCsync (s : State) : Result :=
  retire 2 s

/-- `SSYNC` (42 R345): no effect on one core (20 R141). -/
def execSsync (s : State) : Result :=
  retire 2 s

/-- `EMUEXCPT` (42 R347): refused in every state, log entry 16. -/
def execEmuexcpt (_s : State) : Result :=
  .refused .emulation

/-- `NOP` (42 R348). -/
def execNop (s : State) : Result :=
  retire 2 s

/-- `TESTSET (Pn)` (42 R349, 20 R145). -/
def execTestset (pn : PReg) (s : State) : Result :=
  if pn = .sp ∨ pn = .fp then .refused .testsetPointer
  else if (regionOf (s.getP pn).toNat).isExternal then
    finish s 2
      ((memRead s (s.getP pn) .byte).bind fun x =>
        memWrite { x.2 with astat := x.2.astat.putCc (x.1 == 0#32) } (s.getP pn) .byte (x.1 ||| 0x80#32))
  else .refused .testsetRegion

end Sys2Proof.Machine
end

