-- ==== Sys2Proof/Machine/LoadStore.lean ====
section
/-! DEFINITION. Loads and stores through the pointer registers (43 R361 to R376). -/

namespace Sys2Proof.Machine

/-- A load: `k` writes the loaded value, zero-extended to a word, and moves the pointer. -/
def load (s : State) (len : Nat) (a : Word) (sz : Size) (k : Word → State → State) : Result :=
  finish s len ((memRead s a sz).bind fun x => .ok (k x.1 x.2))

/-- A store: `k` moves the pointer. -/
def store (s : State) (len : Nat) (a : Word) (sz : Size) (v : Word) (k : State → State) : Result :=
  finish s len ((memWrite s a sz v).bind fun t => .ok (k t))

/-! ### Format LDST: `[Pp++]`, `[Pp--]`, `[Pp]` (43 R361 to R367)

Each operation names its pointer, the amount that the pointer moves by afterwards (0 for `[Pp]`), and the register. -/

/-- A load of a data register through a pointer that then moves by `m`; `ext` extends the loaded value. -/
def loadD (s : State) (pp : PReg) (m : Word) (sz : Size) (ext : Word → Word) (rr : DReg) : Result :=
  load s 2 (s.getP pp) sz (fun v t => (t.setD rr (ext v)).setP pp (s.getP pp + m))

/-- A load of a pointer register through another pointer that then moves by `m` (43 R363). -/
def loadPMoving (s : State) (pp : PReg) (m : Word) (pr : PReg) : Result :=
  if pr = pp then .refused .loadIntoPostModified
  else load s 2 (s.getP pp) .word (fun v t => (t.setP pr v).setP pp (s.getP pp + m))

/-- A store of `v` through a pointer that then moves by `m`. -/
def storeMoving (s : State) (pp : PReg) (m : Word) (sz : Size) (v : Word) : Result :=
  store s 2 (s.getP pp) sz v (fun t => t.setP pp (s.getP pp + m))

/-- `Rr = [Pp++]` (43 R362). -/
def execLdDInc (rr : DReg) (pp : PReg) (s : State) : Result :=
  loadD s pp Size.word.step .word id rr

/-- `Pr = [Pp++]` (43 R363). -/
def execLdPInc (pr pp : PReg) (s : State) : Result :=
  loadPMoving s pp Size.word.step pr

/-- `Rr = W[Pp++] (Z)` (43 R364). -/
def execLdHalfZInc (rr : DReg) (pp : PReg) (s : State) : Result :=
  loadD s pp Size.half.step .half id rr

/-- `Rr = W[Pp++] (X)` (43 R364). -/
def execLdHalfXInc (rr : DReg) (pp : PReg) (s : State) : Result :=
  loadD s pp Size.half.step .half sextLow rr

/-- `Rr = B[Pp++] (Z)` (43 R365). -/
def execLdByteZInc (rr : DReg) (pp : PReg) (s : State) : Result :=
  loadD s pp Size.byte.step .byte id rr

/-- `Rr = B[Pp++] (X)` (43 R365). -/
def execLdByteXInc (rr : DReg) (pp : PReg) (s : State) : Result :=
  loadD s pp Size.byte.step .byte sextByteOf rr

/-- `[Pp++] = Rr` (43 R366). -/
def execStDInc (rr : DReg) (pp : PReg) (s : State) : Result :=
  storeMoving s pp Size.word.step .word (s.getD rr)

/-- `[Pp++] = Pr` (43 R366): the value of Pr before the pointer moves. -/
def execStPInc (pr pp : PReg) (s : State) : Result :=
  storeMoving s pp Size.word.step .word (s.getP pr)

/-- `W[Pp++] = Rr` (43 R367). -/
def execStHalfInc (rr : DReg) (pp : PReg) (s : State) : Result :=
  storeMoving s pp Size.half.step .half (s.getD rr)

/-- `B[Pp++] = Rr` (43 R367). -/
def execStByteInc (rr : DReg) (pp : PReg) (s : State) : Result :=
  storeMoving s pp Size.byte.step .byte (s.getD rr)

/-- `Rr = [Pp--]` (43 R362). -/
def execLdDDec (rr : DReg) (pp : PReg) (s : State) : Result :=
  loadD s pp (-Size.word.step) .word id rr

/-- `Pr = [Pp--]` (43 R363). -/
def execLdPDec (pr pp : PReg) (s : State) : Result :=
  loadPMoving s pp (-Size.word.step) pr

/-- `Rr = W[Pp--] (Z)` (43 R364). -/
def execLdHalfZDec (rr : DReg) (pp : PReg) (s : State) : Result :=
  loadD s pp (-Size.half.step) .half id rr

/-- `Rr = W[Pp--] (X)` (43 R364). -/
def execLdHalfXDec (rr : DReg) (pp : PReg) (s : State) : Result :=
  loadD s pp (-Size.half.step) .half sextLow rr

/-- `Rr = B[Pp--] (Z)` (43 R365). -/
def execLdByteZDec (rr : DReg) (pp : PReg) (s : State) : Result :=
  loadD s pp (-Size.byte.step) .byte id rr

/-- `Rr = B[Pp--] (X)` (43 R365). -/
def execLdByteXDec (rr : DReg) (pp : PReg) (s : State) : Result :=
  loadD s pp (-Size.byte.step) .byte sextByteOf rr

/-- `[Pp--] = Rr` (43 R366). -/
def execStDDec (rr : DReg) (pp : PReg) (s : State) : Result :=
  storeMoving s pp (-Size.word.step) .word (s.getD rr)

/-- `[Pp--] = Pr` (43 R366): the value of Pr before the pointer moves. -/
def execStPDec (pr pp : PReg) (s : State) : Result :=
  storeMoving s pp (-Size.word.step) .word (s.getP pr)

/-- `W[Pp--] = Rr` (43 R367). -/
def execStHalfDec (rr : DReg) (pp : PReg) (s : State) : Result :=
  storeMoving s pp (-Size.half.step) .half (s.getD rr)

/-- `B[Pp--] = Rr` (43 R367). -/
def execStByteDec (rr : DReg) (pp : PReg) (s : State) : Result :=
  storeMoving s pp (-Size.byte.step) .byte (s.getD rr)

/-- `Rr = [Pp]` (43 R362). -/
def execLdDInd (rr : DReg) (pp : PReg) (s : State) : Result :=
  loadD s pp 0#32 .word id rr

/-- `Pr = [Pp]` (43 R363). -/
def execLdPInd (pr pp : PReg) (s : State) : Result :=
  load s 2 (s.getP pp) .word (fun v t => t.setP pr v)

/-- `Rr = W[Pp] (Z)` (43 R364). -/
def execLdHalfZInd (rr : DReg) (pp : PReg) (s : State) : Result :=
  loadD s pp 0#32 .half id rr

/-- `Rr = W[Pp] (X)` (43 R364). -/
def execLdHalfXInd (rr : DReg) (pp : PReg) (s : State) : Result :=
  loadD s pp 0#32 .half sextLow rr

/-- `Rr = B[Pp] (Z)` (43 R365). -/
def execLdByteZInd (rr : DReg) (pp : PReg) (s : State) : Result :=
  loadD s pp 0#32 .byte id rr

/-- `Rr = B[Pp] (X)` (43 R365). -/
def execLdByteXInd (rr : DReg) (pp : PReg) (s : State) : Result :=
  loadD s pp 0#32 .byte sextByteOf rr

/-- `[Pp] = Rr` (43 R366). -/
def execStDInd (rr : DReg) (pp : PReg) (s : State) : Result :=
  storeMoving s pp 0#32 .word (s.getD rr)

/-- `[Pp] = Pr` (43 R366): the value of Pr before the pointer moves. -/
def execStPInd (pr pp : PReg) (s : State) : Result :=
  storeMoving s pp 0#32 .word (s.getP pr)

/-- `W[Pp] = Rr` (43 R367). -/
def execStHalfInd (rr : DReg) (pp : PReg) (s : State) : Result :=
  storeMoving s pp 0#32 .half (s.getD rr)

/-- `B[Pp] = Rr` (43 R367). -/
def execStByteInd (rr : DReg) (pp : PReg) (s : State) : Result :=
  storeMoving s pp 0#32 .byte (s.getD rr)

/-! ### Offsets: formats LDSTii, LDSTiiFP, LDSTidxI (43 R368 to R375) -/

/-- A load of a data register at an address; the pointer is unchanged. -/
def loadDAt (s : State) (len : Nat) (a : Word) (sz : Size) (ext : Word → Word) (rr : DReg) : Result :=
  load s len a sz (fun v t => t.setD rr (ext v))

/-- A load of a pointer register at an address. -/
def loadPAt (s : State) (len : Nat) (a : Word) (pr : PReg) : Result := load s len a .word (fun v t => t.setP pr v)

/-- A store at an address; the pointer is unchanged. -/
def storeAt (s : State) (len : Nat) (a : Word) (sz : Size) (v : Word) : Result := store s len a sz v id

/-- `P[p] + uimm`: a short unsigned offset in units of the access (43 R368). -/
def shortAddress (s : State) (pp : PReg) (offset : BitVec 4) (sz : Size) : Word := s.getP pp + zext offset * sz.step

/-- `P[p] + k`: a long signed offset in units of the access (43 R373 to R375). -/
def longAddress (s : State) (pp : PReg) (offset : BitVec 16) (sz : Size) : Word := s.getP pp + sext offset * sz.step

/-- `FP + k`, k negative (43 R372). -/
def frameAddress (s : State) (offset : BitVec 5) : Word := s.getP .fp + framePointerOffset offset

/-- `Rr = [Pp + uimm]` (43 R368). -/
def execLdDOff (rr : DReg) (pp : PReg) (offset : BitVec 4) (s : State) : Result :=
  loadDAt s 2 (shortAddress s pp offset .word) .word id rr

/-- `Rr = W[Pp + uimm] (Z)` (43 R369). -/
def execLdHalfZOff (rr : DReg) (pp : PReg) (offset : BitVec 4) (s : State) : Result :=
  loadDAt s 2 (shortAddress s pp offset .half) .half id rr

/-- `Rr = W[Pp + uimm] (X)` (43 R369). -/
def execLdHalfXOff (rr : DReg) (pp : PReg) (offset : BitVec 4) (s : State) : Result :=
  loadDAt s 2 (shortAddress s pp offset .half) .half sextLow rr

/-- `Pr = [Pp + uimm]` (43 R370). -/
def execLdPOff (pr pp : PReg) (offset : BitVec 4) (s : State) : Result :=
  loadPAt s 2 (shortAddress s pp offset .word) pr

/-- `[Pp + uimm] = Rr` (43 R371). -/
def execStDOff (rr : DReg) (pp : PReg) (offset : BitVec 4) (s : State) : Result :=
  storeAt s 2 (shortAddress s pp offset .word) .word (s.getD rr)

/-- `W[Pp + uimm] = Rr` (43 R371). -/
def execStHalfOff (rr : DReg) (pp : PReg) (offset : BitVec 4) (s : State) : Result :=
  storeAt s 2 (shortAddress s pp offset .half) .half (s.getD rr)

/-- `[Pp + uimm] = Pr` (43 R371). -/
def execStPOff (pr pp : PReg) (offset : BitVec 4) (s : State) : Result :=
  storeAt s 2 (shortAddress s pp offset .word) .word (s.getP pr)

/-- `Rr = [FP - m]` (43 R372). -/
def execLdDFp (rr : DReg) (offset : BitVec 5) (s : State) : Result :=
  loadDAt s 2 (frameAddress s offset) .word id rr

/-- `Pr = [FP - m]` (43 R372). -/
def execLdPFp (pr : PReg) (offset : BitVec 5) (s : State) : Result :=
  loadPAt s 2 (frameAddress s offset) pr

/-- `[FP - m] = Rr` (43 R372). -/
def execStDFp (rr : DReg) (offset : BitVec 5) (s : State) : Result :=
  storeAt s 2 (frameAddress s offset) .word (s.getD rr)

/-- `[FP - m] = Pr` (43 R372). -/
def execStPFp (pr : PReg) (offset : BitVec 5) (s : State) : Result :=
  storeAt s 2 (frameAddress s offset) .word (s.getP pr)

/-- `Rr = [Pp + k]` (43 R373). -/
def execLdDIdx (rr : DReg) (pp : PReg) (offset : BitVec 16) (s : State) : Result :=
  loadDAt s 4 (longAddress s pp offset .word) .word id rr

/-- `Pr = [Pp + k]` (43 R373). -/
def execLdPIdx (pr pp : PReg) (offset : BitVec 16) (s : State) : Result :=
  loadPAt s 4 (longAddress s pp offset .word) pr

/-- `[Pp + k] = Rr` (43 R373). -/
def execStDIdx (rr : DReg) (pp : PReg) (offset : BitVec 16) (s : State) : Result :=
  storeAt s 4 (longAddress s pp offset .word) .word (s.getD rr)

/-- `[Pp + k] = Pr` (43 R373). -/
def execStPIdx (pr pp : PReg) (offset : BitVec 16) (s : State) : Result :=
  storeAt s 4 (longAddress s pp offset .word) .word (s.getP pr)

/-- `Rr = W[Pp + k] (Z)` (43 R374). -/
def execLdHalfZIdx (rr : DReg) (pp : PReg) (offset : BitVec 16) (s : State) : Result :=
  loadDAt s 4 (longAddress s pp offset .half) .half id rr

/-- `Rr = W[Pp + k] (X)` (43 R374). -/
def execLdHalfXIdx (rr : DReg) (pp : PReg) (offset : BitVec 16) (s : State) : Result :=
  loadDAt s 4 (longAddress s pp offset .half) .half sextLow rr

/-- `W[Pp + k] = Rr` (43 R374). -/
def execStHalfIdx (rr : DReg) (pp : PReg) (offset : BitVec 16) (s : State) : Result :=
  storeAt s 4 (longAddress s pp offset .half) .half (s.getD rr)

/-- `Rr = B[Pp + k] (Z)` (43 R375). -/
def execLdByteZIdx (rr : DReg) (pp : PReg) (offset : BitVec 16) (s : State) : Result :=
  loadDAt s 4 (longAddress s pp offset .byte) .byte id rr

/-- `Rr = B[Pp + k] (X)` (43 R375). -/
def execLdByteXIdx (rr : DReg) (pp : PReg) (offset : BitVec 16) (s : State) : Result :=
  loadDAt s 4 (longAddress s pp offset .byte) .byte sextByteOf rr

/-- `B[Pp + k] = Rr` (43 R375). -/
def execStByteIdx (rr : DReg) (pp : PReg) (offset : BitVec 16) (s : State) : Result :=
  storeAt s 4 (longAddress s pp offset .byte) .byte (s.getD rr)

/-! ### Format LDSTpmod: a pointer moved by a pointer, and half registers (43 R376) -/

/-- The pointer moves by the index register, unless the two are one register. -/
def movePointer (s t : State) (pp pi : PReg) : State := if pi = pp then t else t.setP pp (s.getP pp + s.getP pi)

/-- A load of a whole data register; with the pointer as its own index it is no instruction. -/
def loadPmodWhole (s : State) (pp pi : PReg) (sz : Size) (ext : Word → Word) (rr : DReg) : Result :=
  if pi = pp then .refused .notInSubset
  else load s 2 (s.getP pp) sz (fun v t => movePointer s (t.setD rr (ext v)) pp pi)

/-- `Rr = [Pp ++ Pi]` (43 R376). -/
def execLdPmod (rr : DReg) (pp pi : PReg) (s : State) : Result :=
  loadPmodWhole s pp pi .word id rr

/-- `Rr.L = W[Pp ++ Pi]`, or `Rr.L = W[Pp]` where the index is the pointer (43 R376). -/
def execLdPmodLo (rr : DReg) (pp pi : PReg) (s : State) : Result :=
  load s 2 (s.getP pp) .half (fun v t => movePointer s (t.setD rr (withLow (t.getD rr) (lowHalf v))) pp pi)

/-- `Rr.H = W[Pp ++ Pi]`, or `Rr.H = W[Pp]` where the index is the pointer (43 R376). -/
def execLdPmodHi (rr : DReg) (pp pi : PReg) (s : State) : Result :=
  load s 2 (s.getP pp) .half (fun v t => movePointer s (t.setD rr (withHigh (t.getD rr) (lowHalf v))) pp pi)

/-- `Rr = W[Pp ++ Pi] (Z)` (43 R376). -/
def execLdPmodHalfZ (rr : DReg) (pp pi : PReg) (s : State) : Result :=
  loadPmodWhole s pp pi .half id rr

/-- `[Pp ++ Pi] = Rr` (43 R376). -/
def execStPmod (rr : DReg) (pp pi : PReg) (s : State) : Result :=
  if pi = pp then .refused .notInSubset
  else store s 2 (s.getP pp) .word (s.getD rr) (fun t => movePointer s t pp pi)

/-- `W[Pp ++ Pi] = Rr.L`, or `W[Pp] = Rr.L` where the index is the pointer (43 R376). -/
def execStPmodLo (rr : DReg) (pp pi : PReg) (s : State) : Result :=
  store s 2 (s.getP pp) .half (s.getD rr) (fun t => movePointer s t pp pi)

/-- `W[Pp ++ Pi] = Rr.H`, or `W[Pp] = Rr.H` where the index is the pointer (43 R376). -/
def execStPmodHi (rr : DReg) (pp pi : PReg) (s : State) : Result :=
  store s 2 (s.getP pp) .half (zext (highHalf (s.getD rr))) (fun t => movePointer s t pp pi)

/-- `Rr = W[Pp ++ Pi] (X)` (43 R376): a load although its bit W is 1. -/
def execLdPmodHalfX (rr : DReg) (pp pi : PReg) (s : State) : Result :=
  loadPmodWhole s pp pi .half sextLow rr

end Sys2Proof.Machine
end

