-- ==== Sys2Proof/WellFormed.lean ====
section
/-! DEFINITION. Which terms of `Instr` are instructions: the operand combinations that a format or its rule lists
(30 R178, R179; 41 R260, R262; 43 R380, R381). Every other combination is `refuse(NotInSubset)` (30 R210). -/

namespace Sys2Proof

/-- A data or pointer register: group 0 or 1 of 10 R73. -/
def Reg.isDP : Reg → Bool
  | .gen (.d _) | .gen (.p _) => true
  | _ => false

/-- A register of the groups 0 to 3 of 10 R73. -/
def Reg.isGen : Reg → Bool
  | .gen _ => true
  | _ => false

/-- A data register: group 0 of 10 R73. -/
def Reg.isD : Reg → Bool
  | .gen (.d _) => true
  | _ => false

/-- A part of an accumulator (41 R262). -/
def Reg.isAccPart : Reg → Bool
  | .a0x | .a0w | .a1x | .a1w => true
  | _ => false

/-- The pairs a register move accepts: 41 R260 (2), and a data register beside an accumulator part (41 R262). -/
def Reg.movable (dst src : Reg) : Bool :=
  (dst.isDP || src.isDP || (dst.isGen && src.isGen)) &&
    (!dst.isAccPart || src.isD) && (!src.isAccPart || dst.isD)

/-- The registers `reg = [SP++]` accepts: groups 2 to 7 (43 R381). -/
def Reg.poppable (r : Reg) : Bool := !r.isDP

/-- The registers `[--SP] = reg` accepts: all but SP (43 R380). -/
def Reg.pushable (r : Reg) : Bool := r != .gen (.p .sp)

/-- `pr <= 5` of 30 R179: P0 to P5. -/
def PReg.numbered : PReg → Bool
  | .sp | .fp => false
  | .p0 | .p1 | .p2 | .p3 | .p4 | .p5 => true

/-- The term is an instruction the encoding allows. -/
def Instr.wf : Instr → Bool
  | .popReg reg => reg.poppable
  | .pushReg reg => reg.pushable
  | .popMultDP _ pr | .popMultP pr | .pushMultDP _ pr | .pushMultP pr => pr.numbered
  | .regMove dst src => dst.movable src
  | .nop | .rts | .rti | .rtx | .rtn | .rte | .idle | .csync | .ssync | .emuexcpt | .cli _ | .sti _ | .jumpReg _
  | .callReg _ | .callPcReg _ | .jumpPcReg _ | .raise _ | .excpt _ | .testset _ | .ccToD _ | .dToCc _ | .notCc
  | .prefetch _ _ | .flushinv _ _ | .flush _ _ | .iflush _ _ | .ccSetBit _ | .ccOrBit _ | .ccAndBit _
  | .ccXorBit _ | .bitSetCc _ | .bitOrCc _ | .bitAndCc _ | .bitXorCc _ | .popMultD _ | .pushMultD _
  | .movIfNotCc _ _ | .movIfCc _ _ | .cmpEqD _ _ | .cmpEqDImm _ _ | .cmpEqP _ _ | .cmpEqPImm _ _ | .cmpLtD _ _
  | .cmpLtDImm _ _ | .cmpLtP _ _ | .cmpLtPImm _ _ | .cmpLeD _ _ | .cmpLeDImm _ _ | .cmpLeP _ _ | .cmpLePImm _ _
  | .cmpLtuD _ _ | .cmpLtuDImm _ _ | .cmpLtuP _ _ | .cmpLtuPImm _ _ | .cmpLeuD _ _ | .cmpLeuDImm _ _
  | .cmpLeuP _ _ | .cmpLeuPImm _ _ | .cmpEqAcc | .cmpLtAcc | .cmpLeAcc | .jumpIfNotCc _ _ | .jumpIfCc _ _
  | .jumpShort _ | .asrD _ _ | .lsrD _ _ | .lslD _ _ | .mulD _ _ | .sextHalf _ _ | .zextHalf _ _ | .sextByte _ _
  | .zextByte _ _ | .negD _ _ | .notD _ _ | .subP _ _ | .shl2P _ _ | .shr2P _ _ | .shr1P _ _ | .sumShl1P _ _
  | .sumShl2P _ _ | .bittstNot _ _ | .bittst _ _ | .bitset _ _ | .bittgl _ _ | .bitclr _ _ | .asrImm _ _
  | .lsrImm _ _ | .lslImm _ _ | .addD _ _ _ | .subD _ _ _ | .andD _ _ _ | .orD _ _ _ | .xorD _ _ _ | .addP _ _ _
  | .addPShl1 _ _ _ | .addPShl2 _ _ _ | .movImmD _ _ | .addImmD _ _ | .movImmP _ _ | .addImmP _ _ | .ldPmod _ _ _
  | .ldPmodLo _ _ _ | .ldPmodHi _ _ _ | .ldPmodHalfZ _ _ _ | .stPmod _ _ _ | .stPmodLo _ _ _ | .stPmodHi _ _ _
  | .ldPmodHalfX _ _ _ | .ldDInc _ _ | .ldPInc _ _ | .ldHalfZInc _ _ | .ldHalfXInc _ _ | .ldByteZInc _ _
  | .ldByteXInc _ _ | .stDInc _ _ | .stPInc _ _ | .stHalfInc _ _ | .stByteInc _ _ | .ldDDec _ _ | .ldPDec _ _
  | .ldHalfZDec _ _ | .ldHalfXDec _ _ | .ldByteZDec _ _ | .ldByteXDec _ _ | .stDDec _ _ | .stPDec _ _
  | .stHalfDec _ _ | .stByteDec _ _ | .ldDInd _ _ | .ldPInd _ _ | .ldHalfZInd _ _ | .ldHalfXInd _ _
  | .ldByteZInd _ _ | .ldByteXInd _ _ | .stDInd _ _ | .stPInd _ _ | .stHalfInd _ _ | .stByteInd _ _ | .ldIInc _ _
  | .ldILoInc _ _ | .ldIHiInc _ _ | .stIInc _ _ | .stILoInc _ _ | .stIHiInc _ _ | .ldIDec _ _ | .ldILoDec _ _
  | .ldIHiDec _ _ | .stIDec _ _ | .stILoDec _ _ | .stIHiDec _ _ | .ldIInd _ _ | .ldILoInd _ _ | .ldIHiInd _ _
  | .stIInd _ _ | .stILoInd _ _ | .stIHiInd _ _ | .ldIMod _ _ _ | .stIMod _ _ _ | .addIM _ _ | .subIM _ _
  | .addI2 _ | .subI2 _ | .addI4 _ | .subI4 _ | .ldDOff _ _ _ | .ldHalfZOff _ _ _ | .ldHalfXOff _ _ _
  | .ldPOff _ _ _ | .stDOff _ _ _ | .stHalfOff _ _ _ | .stPOff _ _ _ | .ldDFp _ _ | .ldPFp _ _ | .stDFp _ _
  | .stPFp _ _ | .lsetup _ _ _ | .lsetupP _ _ _ _ | .lsetupPHalf _ _ _ _ | .ldiLo _ _ | .ldiHi _ _ | .ldiZ _ _
  | .ldiX _ _ | .jumpLong _ | .callLong _ | .ldDIdx _ _ _ | .ldPIdx _ _ _ | .stDIdx _ _ _ | .stPIdx _ _ _
  | .ldHalfZIdx _ _ _ | .ldHalfXIdx _ _ _ | .stHalfIdx _ _ _ | .ldByteZIdx _ _ _ | .ldByteXIdx _ _ _
  | .stByteIdx _ _ _ | .link _ | .unlink => true

end Sys2Proof
end

