-- ==== Sys2Proof/Machine/Move.lean ====
section
/-! DEFINITION. Register moves, conditional moves and load immediate (41 R260 to R264, R271 to R274). -/

namespace Sys2Proof.Machine

/-- `dst = src` (41 R260 to R263). A pair the rule does not list is no instruction (30 R210). -/
def execRegMove (dst src : Reg) (s : State) : Result :=
  if dst.movable src then
    finish s 2
      ((checkPrivilege s dst).bind fun _ =>
        (checkPrivilege s src).bind fun _ =>
          (readReg s src).bind fun x => writeReg x.2 dst x.1)
  else .refused .notInSubset

/-- `IF !CC dst = src` (41 R264). -/
def execMovIfNotCc (dst src : DPReg) (s : State) : Result :=
  retire 2 (if s.astat.cc then s else s.setDP dst (s.getDP src))

/-- `IF CC dst = src` (41 R264). -/
def execMovIfCc (dst src : DPReg) (s : State) : Result :=
  retire 2 (if s.astat.cc then s.setDP dst (s.getDP src) else s)

/-- `reg.L = imm16` (41 R271). -/
def execLdiLo (reg : GenReg) (imm : BitVec 16) (s : State) : Result :=
  retire 4 (s.setGen reg (withLow (s.getGen reg) imm))

/-- `reg.H = imm16` (41 R272). -/
def execLdiHi (reg : GenReg) (imm : BitVec 16) (s : State) : Result :=
  retire 4 (s.setGen reg (withHigh (s.getGen reg) imm))

/-- `reg = imm16 (Z)` (41 R273). -/
def execLdiZ (reg : GenReg) (imm : BitVec 16) (s : State) : Result :=
  retire 4 (s.setGen reg (zext imm))

/-- `reg = imm16 (X)` (41 R274). -/
def execLdiX (reg : GenReg) (imm : BitVec 16) (s : State) : Result :=
  retire 4 (s.setGen reg (sext imm))

end Sys2Proof.Machine
end

