-- ==== Sys2Proof/Machine/Pointer.lean ====
section
/-! DEFINITION. The pointer arithmetic instructions (41 R235 to R237, R240, R241, R265 to R270). -/

namespace Sys2Proof.Machine

/-- A pointer-register result: no flag changes (41 R235). -/
def pointerResult (s : State) (pd : PReg) (v : Word) : Result := retire 2 (s.setP pd v)

/-- `Pd = Ps0 + Ps1` (41 R235). -/
def execAddP (pd ps0 ps1 : PReg) (s : State) : Result :=
  pointerResult s pd (s.getP ps0 + s.getP ps1)

/-- `Pd = Ps0 + (Ps1 << 1)` (41 R236). -/
def execAddPShl1 (pd ps0 ps1 : PReg) (s : State) : Result :=
  pointerResult s pd (s.getP ps0 + (s.getP ps1 <<< 1))

/-- `Pd = Ps0 + (Ps1 << 2)` (41 R237). -/
def execAddPShl2 (pd ps0 ps1 : PReg) (s : State) : Result :=
  pointerResult s pd (s.getP ps0 + (s.getP ps1 <<< 2))

/-- `Pd = imm7 (X)` (41 R240). -/
def execMovImmP (pd : PReg) (imm : BitVec 7) (s : State) : Result :=
  pointerResult s pd (sext imm)

/-- `Pd += imm7` (41 R241). -/
def execAddImmP (pd : PReg) (imm : BitVec 7) (s : State) : Result :=
  pointerResult s pd (s.getP pd + sext imm)

/-- `Pd -= Ps` (41 R265). -/
def execSubP (pd ps : PReg) (s : State) : Result :=
  pointerResult s pd (s.getP pd - s.getP ps)

/-- `Pd = Ps << 2` (41 R266). -/
def execShl2P (pd ps : PReg) (s : State) : Result :=
  pointerResult s pd (s.getP ps <<< 2)

/-- `Pd = Ps >> 2` (41 R267). -/
def execShr2P (pd ps : PReg) (s : State) : Result :=
  pointerResult s pd (s.getP ps >>> 2)

/-- `Pd = Ps >> 1` (41 R268). -/
def execShr1P (pd ps : PReg) (s : State) : Result :=
  pointerResult s pd (s.getP ps >>> 1)

/-- `Pd = (Pd + Ps) << 1` (41 R269). -/
def execSumShl1P (pd ps : PReg) (s : State) : Result :=
  pointerResult s pd ((s.getP pd + s.getP ps) <<< 1)

/-- `Pd = (Pd + Ps) << 2` (41 R270). -/
def execSumShl2P (pd ps : PReg) (s : State) : Result :=
  pointerResult s pd ((s.getP pd + s.getP ps) <<< 2)

end Sys2Proof.Machine
end

