-- ==== Sys2Proof/Machine/Stack.lean ====
section
/-! DEFINITION. Push, pop, push and pop multiple, LINK and UNLINK (43 R380 to R389). -/

namespace Sys2Proof.Machine

/-- IPEND[4] after a pop into `reg` (43 R381): `RETI = [SP++]` sets it. -/
def State.afterPop (t : State) (reg : Reg) : State :=
  if reg = .reti then { t with ipend := setBit t.ipend 4 } else t

/-- IPEND[4] after a push of `reg` (43 R380): `[--SP] = RETI` clears it. -/
def State.afterPush (t : State) (reg : Reg) : State :=
  if reg = .reti then { t with ipend := clearBit t.ipend 4 } else t

/-- `reg = [SP++]` (43 R381, R382). A register the rule does not list is no instruction (30 R210). -/
def execPopReg (reg : Reg) (s : State) : Result :=
  if !reg.poppable then .refused .notInSubset
  else if reg = .emudat then .refused .emudat
  else
    finish s 2
      ((checkPrivilege s reg).bind fun _ =>
        (memRead s s.sp .word).bind fun x =>
          (writeReg x.2 reg x.1).bind fun t => .ok ((t.setSp (s.sp + 4#32)).afterPop reg))

/-- `[--SP] = reg` (43 R380, R382). A register the rule does not list is no instruction (30 R210). -/
def execPushReg (reg : Reg) (s : State) : Result :=
  if !reg.pushable then .refused .notInSubset
  else if reg = .emudat then .refused .emudat
  else
    finish s 2
      ((checkPrivilege s reg).bind fun _ =>
        (readReg s reg).bind fun x =>
          (memWrite x.2 (s.sp - 4#32) .word x.1).bind fun t => .ok ((t.setSp (s.sp - 4#32)).afterPush reg))

/-- A push multiple (43 R384): all of its accesses happen, or none. -/
def pushMultiple (s : State) (rs : List DPReg) : Result :=
  finish s 2 ((pushList s s.sp (rs.map s.getDP)).bind fun x => .ok (x.2.setSp x.1))

/-- A pop multiple (43 R385): the inverse of a push of the same registers. -/
def popMultiple (s : State) (rs : List DPReg) : Result :=
  finish s 2 ((popList s s.sp rs.reverse).bind fun x => .ok (x.2.setSp x.1))

/-- A pointer list must start at P0 to P5 (30 R179). -/
def numberedOnly (pr : PReg) (k : Result) : Result := if pr.numbered then k else .refused .notInSubset

/-- `(R7:dr, P5:pr) = [SP++]` (43 R385). -/
def execPopMultDP (dr : DReg) (pr : PReg) (s : State) : Result :=
  numberedOnly pr (popMultiple s (multRegs (dregsFrom dr) (pregsFrom pr)))

/-- `(R7:dr) = [SP++]` (43 R385). -/
def execPopMultD (dr : DReg) (s : State) : Result :=
  popMultiple s (multRegs (dregsFrom dr) [])

/-- `(P5:pr) = [SP++]` (43 R385). -/
def execPopMultP (pr : PReg) (s : State) : Result :=
  numberedOnly pr (popMultiple s (multRegs [] (pregsFrom pr)))

/-- `[--SP] = (R7:dr, P5:pr)` (43 R384). -/
def execPushMultDP (dr : DReg) (pr : PReg) (s : State) : Result :=
  numberedOnly pr (pushMultiple s (multRegs (dregsFrom dr) (pregsFrom pr)))

/-- `[--SP] = (R7:dr)` (43 R384). -/
def execPushMultD (dr : DReg) (s : State) : Result :=
  pushMultiple s (multRegs (dregsFrom dr) [])

/-- `[--SP] = (P5:pr)` (43 R384). -/
def execPushMultP (pr : PReg) (s : State) : Result :=
  numberedOnly pr (pushMultiple s (multRegs [] (pregsFrom pr)))

/-- `LINK uimm` (43 R388). -/
def execLink (framesize : BitVec 16) (s : State) : Result :=
  finish s 4
    ((memWrite s (s.sp - 4#32) .word s.rets).bind fun t =>
      (memWrite t (s.sp - 8#32) .word (s.getP .fp)).bind fun u =>
        .ok ((u.setP .fp (s.sp - 8#32)).setSp (s.sp - 8#32 - (zext framesize <<< 2))))

/-- `UNLINK` (43 R389). -/
def execUnlink (s : State) : Result :=
  finish s 4
    ((memRead s (s.getP .fp) .word).bind fun x =>
      (memRead x.2 (s.getP .fp + 4#32) .word).bind fun y =>
        .ok { ((y.2.setSp (s.getP .fp + 8#32)).setP .fp x.1) with rets := y.1 })

end Sys2Proof.Machine
end

