-- ==== Sys2Proof/Machine/Dispatch.lean ====
section
/-! DEFINITION. The meaning of every instruction: one arm per constructor, in the table's order. -/

namespace Sys2Proof.Machine

def exec (i : Instr) (s : State) : Host.Outcome State Fault Refusal :=
  match i with
  | .nop => Sys2Proof.Machine.execNop s
  | .rts => Sys2Proof.Machine.execRts s
  | .rti => Sys2Proof.Machine.execRti s
  | .rtx => Sys2Proof.Machine.execRtx s
  | .rtn => Sys2Proof.Machine.execRtn s
  | .rte => Sys2Proof.Machine.execRte s
  | .idle => Sys2Proof.Machine.execIdle s
  | .csync => Sys2Proof.Machine.execCsync s
  | .ssync => Sys2Proof.Machine.execSsync s
  | .emuexcpt => Sys2Proof.Machine.execEmuexcpt s
  | .cli rd => Sys2Proof.Machine.execCli rd s
  | .sti rd => Sys2Proof.Machine.execSti rd s
  | .jumpReg pn => Sys2Proof.Machine.execJumpReg pn s
  | .callReg pn => Sys2Proof.Machine.execCallReg pn s
  | .callPcReg pn => Sys2Proof.Machine.execCallPcReg pn s
  | .jumpPcReg pn => Sys2Proof.Machine.execJumpPcReg pn s
  | .raise n => Sys2Proof.Machine.execRaise n s
  | .excpt n => Sys2Proof.Machine.execExcpt n s
  | .testset pn => Sys2Proof.Machine.execTestset pn s
  | .popReg reg => Sys2Proof.Machine.execPopReg reg s
  | .pushReg reg => Sys2Proof.Machine.execPushReg reg s
  | .ccToD rd => Sys2Proof.Machine.execCcToD rd s
  | .dToCc rs => Sys2Proof.Machine.execDToCc rs s
  | .notCc => Sys2Proof.Machine.execNotCc s
  | .prefetch post pp => Sys2Proof.Machine.execPrefetch post pp s
  | .flushinv post pp => Sys2Proof.Machine.execFlushinv post pp s
  | .flush post pp => Sys2Proof.Machine.execFlush post pp s
  | .iflush post pp => Sys2Proof.Machine.execIflush post pp s
  | .ccSetBit bit => Sys2Proof.Machine.execCcSetBit bit s
  | .ccOrBit bit => Sys2Proof.Machine.execCcOrBit bit s
  | .ccAndBit bit => Sys2Proof.Machine.execCcAndBit bit s
  | .ccXorBit bit => Sys2Proof.Machine.execCcXorBit bit s
  | .bitSetCc bit => Sys2Proof.Machine.execBitSetCc bit s
  | .bitOrCc bit => Sys2Proof.Machine.execBitOrCc bit s
  | .bitAndCc bit => Sys2Proof.Machine.execBitAndCc bit s
  | .bitXorCc bit => Sys2Proof.Machine.execBitXorCc bit s
  | .popMultDP dr pr => Sys2Proof.Machine.execPopMultDP dr pr s
  | .popMultD dr => Sys2Proof.Machine.execPopMultD dr s
  | .popMultP pr => Sys2Proof.Machine.execPopMultP pr s
  | .pushMultDP dr pr => Sys2Proof.Machine.execPushMultDP dr pr s
  | .pushMultD dr => Sys2Proof.Machine.execPushMultD dr s
  | .pushMultP pr => Sys2Proof.Machine.execPushMultP pr s
  | .movIfNotCc dst src => Sys2Proof.Machine.execMovIfNotCc dst src s
  | .movIfCc dst src => Sys2Proof.Machine.execMovIfCc dst src s
  | .cmpEqD rx ry => Sys2Proof.Machine.execCmpEqD rx ry s
  | .cmpEqDImm rx imm => Sys2Proof.Machine.execCmpEqDImm rx imm s
  | .cmpEqP px py => Sys2Proof.Machine.execCmpEqP px py s
  | .cmpEqPImm px imm => Sys2Proof.Machine.execCmpEqPImm px imm s
  | .cmpLtD rx ry => Sys2Proof.Machine.execCmpLtD rx ry s
  | .cmpLtDImm rx imm => Sys2Proof.Machine.execCmpLtDImm rx imm s
  | .cmpLtP px py => Sys2Proof.Machine.execCmpLtP px py s
  | .cmpLtPImm px imm => Sys2Proof.Machine.execCmpLtPImm px imm s
  | .cmpLeD rx ry => Sys2Proof.Machine.execCmpLeD rx ry s
  | .cmpLeDImm rx imm => Sys2Proof.Machine.execCmpLeDImm rx imm s
  | .cmpLeP px py => Sys2Proof.Machine.execCmpLeP px py s
  | .cmpLePImm px imm => Sys2Proof.Machine.execCmpLePImm px imm s
  | .cmpLtuD rx ry => Sys2Proof.Machine.execCmpLtuD rx ry s
  | .cmpLtuDImm rx imm => Sys2Proof.Machine.execCmpLtuDImm rx imm s
  | .cmpLtuP px py => Sys2Proof.Machine.execCmpLtuP px py s
  | .cmpLtuPImm px imm => Sys2Proof.Machine.execCmpLtuPImm px imm s
  | .cmpLeuD rx ry => Sys2Proof.Machine.execCmpLeuD rx ry s
  | .cmpLeuDImm rx imm => Sys2Proof.Machine.execCmpLeuDImm rx imm s
  | .cmpLeuP px py => Sys2Proof.Machine.execCmpLeuP px py s
  | .cmpLeuPImm px imm => Sys2Proof.Machine.execCmpLeuPImm px imm s
  | .cmpEqAcc => Sys2Proof.Machine.execCmpEqAcc s
  | .cmpLtAcc => Sys2Proof.Machine.execCmpLtAcc s
  | .cmpLeAcc => Sys2Proof.Machine.execCmpLeAcc s
  | .jumpIfNotCc bp offset => Sys2Proof.Machine.execJumpIfNotCc bp offset s
  | .jumpIfCc bp offset => Sys2Proof.Machine.execJumpIfCc bp offset s
  | .jumpShort offset => Sys2Proof.Machine.execJumpShort offset s
  | .regMove dst src => Sys2Proof.Machine.execRegMove dst src s
  | .asrD rd rs => Sys2Proof.Machine.execAsrD rd rs s
  | .lsrD rd rs => Sys2Proof.Machine.execLsrD rd rs s
  | .lslD rd rs => Sys2Proof.Machine.execLslD rd rs s
  | .mulD rd rs => Sys2Proof.Machine.execMulD rd rs s
  | .sextHalf rd rs => Sys2Proof.Machine.execSextHalf rd rs s
  | .zextHalf rd rs => Sys2Proof.Machine.execZextHalf rd rs s
  | .sextByte rd rs => Sys2Proof.Machine.execSextByte rd rs s
  | .zextByte rd rs => Sys2Proof.Machine.execZextByte rd rs s
  | .negD rd rs => Sys2Proof.Machine.execNegD rd rs s
  | .notD rd rs => Sys2Proof.Machine.execNotD rd rs s
  | .subP pd ps => Sys2Proof.Machine.execSubP pd ps s
  | .shl2P pd ps => Sys2Proof.Machine.execShl2P pd ps s
  | .shr2P pd ps => Sys2Proof.Machine.execShr2P pd ps s
  | .shr1P pd ps => Sys2Proof.Machine.execShr1P pd ps s
  | .sumShl1P pd ps => Sys2Proof.Machine.execSumShl1P pd ps s
  | .sumShl2P pd ps => Sys2Proof.Machine.execSumShl2P pd ps s
  | .bittstNot rd imm => Sys2Proof.Machine.execBittstNot rd imm s
  | .bittst rd imm => Sys2Proof.Machine.execBittst rd imm s
  | .bitset rd imm => Sys2Proof.Machine.execBitset rd imm s
  | .bittgl rd imm => Sys2Proof.Machine.execBittgl rd imm s
  | .bitclr rd imm => Sys2Proof.Machine.execBitclr rd imm s
  | .asrImm rd imm => Sys2Proof.Machine.execAsrImm rd imm s
  | .lsrImm rd imm => Sys2Proof.Machine.execLsrImm rd imm s
  | .lslImm rd imm => Sys2Proof.Machine.execLslImm rd imm s
  | .addD rd rs0 rs1 => Sys2Proof.Machine.execAddD rd rs0 rs1 s
  | .subD rd rs0 rs1 => Sys2Proof.Machine.execSubD rd rs0 rs1 s
  | .andD rd rs0 rs1 => Sys2Proof.Machine.execAndD rd rs0 rs1 s
  | .orD rd rs0 rs1 => Sys2Proof.Machine.execOrD rd rs0 rs1 s
  | .xorD rd rs0 rs1 => Sys2Proof.Machine.execXorD rd rs0 rs1 s
  | .addP pd ps0 ps1 => Sys2Proof.Machine.execAddP pd ps0 ps1 s
  | .addPShl1 pd ps0 ps1 => Sys2Proof.Machine.execAddPShl1 pd ps0 ps1 s
  | .addPShl2 pd ps0 ps1 => Sys2Proof.Machine.execAddPShl2 pd ps0 ps1 s
  | .movImmD rd imm => Sys2Proof.Machine.execMovImmD rd imm s
  | .addImmD rd imm => Sys2Proof.Machine.execAddImmD rd imm s
  | .movImmP pd imm => Sys2Proof.Machine.execMovImmP pd imm s
  | .addImmP pd imm => Sys2Proof.Machine.execAddImmP pd imm s
  | .ldPmod rr pp pi => Sys2Proof.Machine.execLdPmod rr pp pi s
  | .ldPmodLo rr pp pi => Sys2Proof.Machine.execLdPmodLo rr pp pi s
  | .ldPmodHi rr pp pi => Sys2Proof.Machine.execLdPmodHi rr pp pi s
  | .ldPmodHalfZ rr pp pi => Sys2Proof.Machine.execLdPmodHalfZ rr pp pi s
  | .stPmod rr pp pi => Sys2Proof.Machine.execStPmod rr pp pi s
  | .stPmodLo rr pp pi => Sys2Proof.Machine.execStPmodLo rr pp pi s
  | .stPmodHi rr pp pi => Sys2Proof.Machine.execStPmodHi rr pp pi s
  | .ldPmodHalfX rr pp pi => Sys2Proof.Machine.execLdPmodHalfX rr pp pi s
  | .ldDInc rr pp => Sys2Proof.Machine.execLdDInc rr pp s
  | .ldPInc pr pp => Sys2Proof.Machine.execLdPInc pr pp s
  | .ldHalfZInc rr pp => Sys2Proof.Machine.execLdHalfZInc rr pp s
  | .ldHalfXInc rr pp => Sys2Proof.Machine.execLdHalfXInc rr pp s
  | .ldByteZInc rr pp => Sys2Proof.Machine.execLdByteZInc rr pp s
  | .ldByteXInc rr pp => Sys2Proof.Machine.execLdByteXInc rr pp s
  | .stDInc rr pp => Sys2Proof.Machine.execStDInc rr pp s
  | .stPInc pr pp => Sys2Proof.Machine.execStPInc pr pp s
  | .stHalfInc rr pp => Sys2Proof.Machine.execStHalfInc rr pp s
  | .stByteInc rr pp => Sys2Proof.Machine.execStByteInc rr pp s
  | .ldDDec rr pp => Sys2Proof.Machine.execLdDDec rr pp s
  | .ldPDec pr pp => Sys2Proof.Machine.execLdPDec pr pp s
  | .ldHalfZDec rr pp => Sys2Proof.Machine.execLdHalfZDec rr pp s
  | .ldHalfXDec rr pp => Sys2Proof.Machine.execLdHalfXDec rr pp s
  | .ldByteZDec rr pp => Sys2Proof.Machine.execLdByteZDec rr pp s
  | .ldByteXDec rr pp => Sys2Proof.Machine.execLdByteXDec rr pp s
  | .stDDec rr pp => Sys2Proof.Machine.execStDDec rr pp s
  | .stPDec pr pp => Sys2Proof.Machine.execStPDec pr pp s
  | .stHalfDec rr pp => Sys2Proof.Machine.execStHalfDec rr pp s
  | .stByteDec rr pp => Sys2Proof.Machine.execStByteDec rr pp s
  | .ldDInd rr pp => Sys2Proof.Machine.execLdDInd rr pp s
  | .ldPInd pr pp => Sys2Proof.Machine.execLdPInd pr pp s
  | .ldHalfZInd rr pp => Sys2Proof.Machine.execLdHalfZInd rr pp s
  | .ldHalfXInd rr pp => Sys2Proof.Machine.execLdHalfXInd rr pp s
  | .ldByteZInd rr pp => Sys2Proof.Machine.execLdByteZInd rr pp s
  | .ldByteXInd rr pp => Sys2Proof.Machine.execLdByteXInd rr pp s
  | .stDInd rr pp => Sys2Proof.Machine.execStDInd rr pp s
  | .stPInd pr pp => Sys2Proof.Machine.execStPInd pr pp s
  | .stHalfInd rr pp => Sys2Proof.Machine.execStHalfInd rr pp s
  | .stByteInd rr pp => Sys2Proof.Machine.execStByteInd rr pp s
  | .ldIInc rr ii => Sys2Proof.Machine.execLdIInc rr ii s
  | .ldILoInc rr ii => Sys2Proof.Machine.execLdILoInc rr ii s
  | .ldIHiInc rr ii => Sys2Proof.Machine.execLdIHiInc rr ii s
  | .stIInc rr ii => Sys2Proof.Machine.execStIInc rr ii s
  | .stILoInc rr ii => Sys2Proof.Machine.execStILoInc rr ii s
  | .stIHiInc rr ii => Sys2Proof.Machine.execStIHiInc rr ii s
  | .ldIDec rr ii => Sys2Proof.Machine.execLdIDec rr ii s
  | .ldILoDec rr ii => Sys2Proof.Machine.execLdILoDec rr ii s
  | .ldIHiDec rr ii => Sys2Proof.Machine.execLdIHiDec rr ii s
  | .stIDec rr ii => Sys2Proof.Machine.execStIDec rr ii s
  | .stILoDec rr ii => Sys2Proof.Machine.execStILoDec rr ii s
  | .stIHiDec rr ii => Sys2Proof.Machine.execStIHiDec rr ii s
  | .ldIInd rr ii => Sys2Proof.Machine.execLdIInd rr ii s
  | .ldILoInd rr ii => Sys2Proof.Machine.execLdILoInd rr ii s
  | .ldIHiInd rr ii => Sys2Proof.Machine.execLdIHiInd rr ii s
  | .stIInd rr ii => Sys2Proof.Machine.execStIInd rr ii s
  | .stILoInd rr ii => Sys2Proof.Machine.execStILoInd rr ii s
  | .stIHiInd rr ii => Sys2Proof.Machine.execStIHiInd rr ii s
  | .ldIMod rr ii m => Sys2Proof.Machine.execLdIMod rr ii m s
  | .stIMod rr ii m => Sys2Proof.Machine.execStIMod rr ii m s
  | .addIM ii m => Sys2Proof.Machine.execAddIM ii m s
  | .subIM ii m => Sys2Proof.Machine.execSubIM ii m s
  | .addI2 ii => Sys2Proof.Machine.execAddI2 ii s
  | .subI2 ii => Sys2Proof.Machine.execSubI2 ii s
  | .addI4 ii => Sys2Proof.Machine.execAddI4 ii s
  | .subI4 ii => Sys2Proof.Machine.execSubI4 ii s
  | .ldDOff rr pp offset => Sys2Proof.Machine.execLdDOff rr pp offset s
  | .ldHalfZOff rr pp offset => Sys2Proof.Machine.execLdHalfZOff rr pp offset s
  | .ldHalfXOff rr pp offset => Sys2Proof.Machine.execLdHalfXOff rr pp offset s
  | .ldPOff pr pp offset => Sys2Proof.Machine.execLdPOff pr pp offset s
  | .stDOff rr pp offset => Sys2Proof.Machine.execStDOff rr pp offset s
  | .stHalfOff rr pp offset => Sys2Proof.Machine.execStHalfOff rr pp offset s
  | .stPOff pr pp offset => Sys2Proof.Machine.execStPOff pr pp offset s
  | .ldDFp rr offset => Sys2Proof.Machine.execLdDFp rr offset s
  | .ldPFp pr offset => Sys2Proof.Machine.execLdPFp pr offset s
  | .stDFp rr offset => Sys2Proof.Machine.execStDFp rr offset s
  | .stPFp pr offset => Sys2Proof.Machine.execStPFp pr offset s
  | .lsetup c soffset eoffset => Sys2Proof.Machine.execLsetup c soffset eoffset s
  | .lsetupP c soffset pp eoffset => Sys2Proof.Machine.execLsetupP c soffset pp eoffset s
  | .lsetupPHalf c soffset pp eoffset => Sys2Proof.Machine.execLsetupPHalf c soffset pp eoffset s
  | .ldiLo reg imm => Sys2Proof.Machine.execLdiLo reg imm s
  | .ldiHi reg imm => Sys2Proof.Machine.execLdiHi reg imm s
  | .ldiZ reg imm => Sys2Proof.Machine.execLdiZ reg imm s
  | .ldiX reg imm => Sys2Proof.Machine.execLdiX reg imm s
  | .jumpLong offset => Sys2Proof.Machine.execJumpLong offset s
  | .callLong offset => Sys2Proof.Machine.execCallLong offset s
  | .ldDIdx rr pp offset => Sys2Proof.Machine.execLdDIdx rr pp offset s
  | .ldPIdx pr pp offset => Sys2Proof.Machine.execLdPIdx pr pp offset s
  | .stDIdx rr pp offset => Sys2Proof.Machine.execStDIdx rr pp offset s
  | .stPIdx pr pp offset => Sys2Proof.Machine.execStPIdx pr pp offset s
  | .ldHalfZIdx rr pp offset => Sys2Proof.Machine.execLdHalfZIdx rr pp offset s
  | .ldHalfXIdx rr pp offset => Sys2Proof.Machine.execLdHalfXIdx rr pp offset s
  | .stHalfIdx rr pp offset => Sys2Proof.Machine.execStHalfIdx rr pp offset s
  | .ldByteZIdx rr pp offset => Sys2Proof.Machine.execLdByteZIdx rr pp offset s
  | .ldByteXIdx rr pp offset => Sys2Proof.Machine.execLdByteXIdx rr pp offset s
  | .stByteIdx rr pp offset => Sys2Proof.Machine.execStByteIdx rr pp offset s
  | .link framesize => Sys2Proof.Machine.execLink framesize s
  | .unlink => Sys2Proof.Machine.execUnlink s

end Sys2Proof.Machine
end

