-- ==== Sys2Proof/Decode.lean ====
section
/-! DEFINITION. The decoder, total on any parcels and rejecting by name, and after it the encoder; both are written
from the format rules 30 R171 to R204, format by format. -/

namespace Sys2Proof

/-! ### Field codes (30 R174, 10 R73) -/

/-- Bits `lo + n - 1` down to `lo` of a parcel (00 R18). -/
def fld (w : Parcel) (lo n : Nat) : BitVec n := w.extractLsb' lo n

/-- A 3-bit data-register field (30 R174). -/
def DReg.ofCode (c : BitVec 3) : DReg :=
  match c with
  | 0#3 => .r0 | 1#3 => .r1 | 2#3 => .r2 | 3#3 => .r3
  | 4#3 => .r4 | 5#3 => .r5 | 6#3 => .r6 | _ => .r7

/-- A 3-bit pointer-register field (30 R174). -/
def PReg.ofCode (c : BitVec 3) : PReg :=
  match c with
  | 0#3 => .p0 | 1#3 => .p1 | 2#3 => .p2 | 3#3 => .p3
  | 4#3 => .p4 | 5#3 => .p5 | 6#3 => .sp | _ => .fp

/-- A 2-bit field that names one of I0 to I3 or M0 to M3 (30 R174). -/
def Quad.ofCode (c : BitVec 2) : Quad :=
  match c with
  | 0#2 => .n0 | 1#2 => .n1 | 2#2 => .n2 | _ => .n3

/-- The loop number bit (30 R200). -/
def LoopNo.ofCode (c : BitVec 1) : LoopNo :=
  match c with
  | 0#1 => .k0 | _ => .k1

/-- A register of the groups 0 to 3 (10 R73). -/
def GenReg.ofCode (g : BitVec 2) (r : BitVec 3) : GenReg :=
  match g with
  | 0#2 => .d (.ofCode r)
  | 1#2 => .p (.ofCode r)
  | 2#2 => if r.getLsbD 2 then .m (.ofCode (r.extractLsb' 0 2)) else .i (.ofCode (r.extractLsb' 0 2))
  | _ => if r.getLsbD 2 then .l (.ofCode (r.extractLsb' 0 2)) else .b (.ofCode (r.extractLsb' 0 2))

/-- The whole table of 10 R73; a reserved slot is none. -/
def Reg.ofCode (g r : BitVec 3) : Option Reg :=
  match g with
  | 4#3 =>
    match r with
    | 0#3 => some .a0x | 1#3 => some .a0w | 2#3 => some .a1x | 3#3 => some .a1w
    | 6#3 => some .astat | 7#3 => some .rets | _ => none
  | 5#3 => none
  | 6#3 =>
    match r with
    | 0#3 => some (.lc .k0) | 1#3 => some (.lt .k0) | 2#3 => some (.lb .k0)
    | 3#3 => some (.lc .k1) | 4#3 => some (.lt .k1) | 5#3 => some (.lb .k1)
    | 6#3 => some .cycles | _ => some .cycles2
  | 7#3 =>
    match r with
    | 0#3 => some .usp | 1#3 => some .seqstat | 2#3 => some .syscfg | 3#3 => some .reti
    | 4#3 => some .retx | 5#3 => some .retn | 6#3 => some .rete | _ => some .emudat
  | _ => some (.gen (.ofCode (g.extractLsb' 0 2) r))

/-- A data or pointer register by its selector bit (30 R180). -/
def DPReg.ofCode (sel : BitVec 1) (r : BitVec 3) : DPReg :=
  match sel with
  | 0#1 => .d (.ofCode r) | _ => .p (.ofCode r)

/-- The ASTAT bit number of a CC2stat field (41 R275). -/
def AstatBit.ofCode (c : BitVec 5) : Option AstatBit :=
  match c with
  | 0#5 => some .az | 1#5 => some .an | 6#5 => some .aq | 12#5 => some .ac0 | 13#5 => some .ac1
  | 16#5 => some .av0 | 17#5 => some .av0s | 18#5 => some .av1 | 19#5 => some .av1s
  | 24#5 => some .v | 25#5 => some .vs | _ => none

/-! ### The decoder -/

/-- What the decoder answers: an instruction, or why there is none. -/
inductive Decoded where
  | instr (i : Instr)
  /-- The word matches no row of the table, or a field has a value its rule does not list (30 R210). -/
  | notInSubset
  /-- The word is a 64-bit multi-issue instruction (30 R173). -/
  | multiIssue
  deriving DecidableEq, Repr

/-- The instruction if it is one the encoding allows (30 R210). -/
def Decoded.ofTerm (i : Instr) : Decoded := if i.wf then .instr i else .notInSubset

/-- An instruction over a field that may name nothing. -/
def Decoded.ofOption (o : Option Instr) : Decoded :=
  match o with
  | some i => .ofTerm i
  | none => .notInSubset

/-- Instruction lengths in bytes (30 R171). -/
inductive Length where
  | two | four | eight
  deriving DecidableEq, Repr

/-- The length rule, from the first parcel alone (30 R171). -/
def lengthOf (hw0 : Parcel) : Length :=
  if fld hw0 14 2 ≠ 0b11#2 then .two
  else if fld hw0 11 1 = 1#1 ∧ fld hw0 13 3 ≠ 0b111#3 then .eight
  else .four

/-- ProgCtrl (30 R176). -/
def decodeProgCtrl (w : Parcel) : Decoded :=
  let n := fld w 0 3
  match fld w 4 4 with
  | 0#4 => if fld w 0 4 = 0#4 then .instr .nop else .notInSubset
  | 1#4 =>
    match fld w 0 4 with
    | 0#4 => .instr .rts | 1#4 => .instr .rti | 2#4 => .instr .rtx
    | 3#4 => .instr .rtn | 4#4 => .instr .rte | _ => .notInSubset
  | 2#4 =>
    match fld w 0 4 with
    | 0#4 => .instr .idle | 3#4 => .instr .csync | 4#4 => .instr .ssync
    | 5#4 => .instr .emuexcpt | _ => .notInSubset
  | 3#4 => if fld w 3 1 = 0#1 then .instr (.cli (.ofCode n)) else .notInSubset
  | 4#4 => if fld w 3 1 = 0#1 then .instr (.sti (.ofCode n)) else .notInSubset
  | 5#4 => if fld w 3 1 = 0#1 then .instr (.jumpReg (.ofCode n)) else .notInSubset
  | 6#4 => if fld w 3 1 = 0#1 then .instr (.callReg (.ofCode n)) else .notInSubset
  | 7#4 => if fld w 3 1 = 0#1 then .instr (.callPcReg (.ofCode n)) else .notInSubset
  | 8#4 => if fld w 3 1 = 0#1 then .instr (.jumpPcReg (.ofCode n)) else .notInSubset
  | 9#4 => .instr (.raise (fld w 0 4))
  | 10#4 => .instr (.excpt (fld w 0 4))
  | 11#4 => if fld w 3 1 = 0#1 then .instr (.testset (.ofCode n)) else .notInSubset
  | _ => .notInSubset

/-- PushPopReg (30 R178). -/
def decodePushPopReg (w : Parcel) : Decoded :=
  let reg := Reg.ofCode (fld w 3 3) (fld w 0 3)
  match fld w 6 2 with
  | 0#2 => .ofOption (reg.map .popReg)
  | 1#2 => .ofOption (reg.map .pushReg)
  | _ => .notInSubset

/-- CC2dreg (30 R182) and CaCTRL (30 R177), which share bits 15:8. -/
def decodeCcRegCache (w : Parcel) : Decoded :=
  let n := fld w 0 3
  let post := fld w 5 1 = 1#1
  match fld w 6 2 with
  | 0#2 =>
    match fld w 3 3 with
    | 0#3 => .instr (.ccToD (.ofCode n))
    | 1#3 => .instr (.dToCc (.ofCode n))
    | 3#3 => if n = 0#3 then .instr .notCc else .notInSubset
    | _ => .notInSubset
  | 1#2 =>
    match fld w 3 2 with
    | 0#2 => .instr (.prefetch post (.ofCode n))
    | 1#2 => .instr (.flushinv post (.ofCode n))
    | 2#2 => .instr (.flush post (.ofCode n))
    | _ => .instr (.iflush post (.ofCode n))
  | _ => .notInSubset

/-- CC2stat (30 R183). -/
def decodeCc2stat (w : Parcel) : Decoded :=
  let bit := AstatBit.ofCode (fld w 0 5)
  match fld w 5 3 with
  | 0#3 => .ofOption (bit.map .ccSetBit)
  | 1#3 => .ofOption (bit.map .ccOrBit)
  | 2#3 => .ofOption (bit.map .ccAndBit)
  | 3#3 => .ofOption (bit.map .ccXorBit)
  | 4#3 => .ofOption (bit.map .bitSetCc)
  | 5#3 => .ofOption (bit.map .bitOrCc)
  | 6#3 => .ofOption (bit.map .bitAndCc)
  | _ => .ofOption (bit.map .bitXorCc)

/-- PushPopMultiple (30 R179): bits 8:6 are d, p, W. -/
def decodePushPopMultiple (w : Parcel) : Decoded :=
  let dr := DReg.ofCode (fld w 3 3)
  let pr := PReg.ofCode (fld w 0 3)
  match fld w 6 3 with
  | 0b110#3 => .ofTerm (.popMultDP dr pr)
  | 0b111#3 => .ofTerm (.pushMultDP dr pr)
  | 0b100#3 => if fld w 0 3 = 0#3 then .instr (.popMultD dr) else .notInSubset
  | 0b101#3 => if fld w 0 3 = 0#3 then .instr (.pushMultD dr) else .notInSubset
  | 0b010#3 => if fld w 3 3 = 0#3 then .ofTerm (.popMultP pr) else .notInSubset
  | 0b011#3 => if fld w 3 3 = 0#3 then .ofTerm (.pushMultP pr) else .notInSubset
  | _ => .notInSubset

/-- ccMV (30 R180). -/
def decodeCcMv (w : Parcel) : Decoded :=
  let dst := DPReg.ofCode (fld w 7 1) (fld w 3 3)
  let src := DPReg.ofCode (fld w 6 1) (fld w 0 3)
  match fld w 8 1 with
  | 0#1 => .instr (.movIfNotCc dst src)
  | _ => .instr (.movIfCc dst src)

/-- CCflag (30 R181): bits 10:6 are I, opc, G. -/
def decodeCcFlag (w : Parcel) : Decoded :=
  let rx := DReg.ofCode (fld w 0 3)
  let ry := DReg.ofCode (fld w 3 3)
  let px := PReg.ofCode (fld w 0 3)
  let py := PReg.ofCode (fld w 3 3)
  let imm := fld w 3 3
  let acc (i : Instr) : Decoded := if fld w 0 6 = 0#6 then .instr i else .notInSubset
  match fld w 6 5 with
  | 0b00000#5 => .instr (.cmpEqD rx ry)
  | 0b00001#5 => .instr (.cmpEqP px py)
  | 0b00010#5 => .instr (.cmpLtD rx ry)
  | 0b00011#5 => .instr (.cmpLtP px py)
  | 0b00100#5 => .instr (.cmpLeD rx ry)
  | 0b00101#5 => .instr (.cmpLeP px py)
  | 0b00110#5 => .instr (.cmpLtuD rx ry)
  | 0b00111#5 => .instr (.cmpLtuP px py)
  | 0b01000#5 => .instr (.cmpLeuD rx ry)
  | 0b01001#5 => .instr (.cmpLeuP px py)
  | 0b01010#5 => acc .cmpEqAcc
  | 0b01100#5 => acc .cmpLtAcc
  | 0b01110#5 => acc .cmpLeAcc
  | 0b10000#5 => .instr (.cmpEqDImm rx imm)
  | 0b10001#5 => .instr (.cmpEqPImm px imm)
  | 0b10010#5 => .instr (.cmpLtDImm rx imm)
  | 0b10011#5 => .instr (.cmpLtPImm px imm)
  | 0b10100#5 => .instr (.cmpLeDImm rx imm)
  | 0b10101#5 => .instr (.cmpLePImm px imm)
  | 0b10110#5 => .instr (.cmpLtuDImm rx imm)
  | 0b10111#5 => .instr (.cmpLtuPImm px imm)
  | 0b11000#5 => .instr (.cmpLeuDImm rx imm)
  | 0b11001#5 => .instr (.cmpLeuPImm px imm)
  | _ => .notInSubset

/-- The 16-bit formats with bits 15:12 zero, told apart by bits 11:8. -/
def decodeGroup0 (w : Parcel) : Decoded :=
  match fld w 8 4 with
  | 0#4 => decodeProgCtrl w
  | 1#4 => decodePushPopReg w
  | 2#4 => decodeCcRegCache w
  | 3#4 => decodeCc2stat w
  | 4#4 | 5#4 => decodePushPopMultiple w
  | 6#4 | 7#4 => decodeCcMv w
  | _ => decodeCcFlag w

/-- BRCC (30 R184). -/
def decodeBrcc (w : Parcel) : Decoded :=
  let bp := fld w 10 1 = 1#1
  match fld w 11 1 with
  | 0#1 => .instr (.jumpIfNotCc bp (fld w 0 10))
  | _ => .instr (.jumpIfCc bp (fld w 0 10))

/-- REGMV (30 R186). -/
def decodeRegMv (w : Parcel) : Decoded :=
  match Reg.ofCode (fld w 9 3) (fld w 3 3), Reg.ofCode (fld w 6 3) (fld w 0 3) with
  | some dst, some src => .ofTerm (.regMove dst src)
  | _, _ => .notInSubset

/-- ALU2op (30 R187), PTR2op (30 R188), LOGI2op (30 R189), which share bits 15:12. -/
def decodeGroup4 (w : Parcel) : Decoded :=
  let rd := DReg.ofCode (fld w 0 3)
  let rs := DReg.ofCode (fld w 3 3)
  let pd := PReg.ofCode (fld w 0 3)
  let ps := PReg.ofCode (fld w 3 3)
  let imm := fld w 3 5
  match fld w 11 1 with
  | 0#1 =>
    match fld w 6 5 with
    | 0b00000#5 => .instr (.asrD rd rs)
    | 0b00001#5 => .instr (.lsrD rd rs)
    | 0b00010#5 => .instr (.lslD rd rs)
    | 0b00011#5 => .instr (.mulD rd rs)
    | 0b01010#5 => .instr (.sextHalf rd rs)
    | 0b01011#5 => .instr (.zextHalf rd rs)
    | 0b01100#5 => .instr (.sextByte rd rs)
    | 0b01101#5 => .instr (.zextByte rd rs)
    | 0b01110#5 => .instr (.negD rd rs)
    | 0b01111#5 => .instr (.notD rd rs)
    | 0b10000#5 => .instr (.subP pd ps)
    | 0b10001#5 => .instr (.shl2P pd ps)
    | 0b10011#5 => .instr (.shr2P pd ps)
    | 0b10100#5 => .instr (.shr1P pd ps)
    | 0b10110#5 => .instr (.sumShl1P pd ps)
    | 0b10111#5 => .instr (.sumShl2P pd ps)
    | _ => .notInSubset
  | _ =>
    match fld w 8 3 with
    | 0#3 => .instr (.bittstNot rd imm)
    | 1#3 => .instr (.bittst rd imm)
    | 2#3 => .instr (.bitset rd imm)
    | 3#3 => .instr (.bittgl rd imm)
    | 4#3 => .instr (.bitclr rd imm)
    | 5#3 => .instr (.asrImm rd imm)
    | 6#3 => .instr (.lsrImm rd imm)
    | _ => .instr (.lslImm rd imm)

/-- COMP3op (30 R190). -/
def decodeComp3 (w : Parcel) : Decoded :=
  let rd := DReg.ofCode (fld w 6 3)
  let rs1 := DReg.ofCode (fld w 3 3)
  let rs0 := DReg.ofCode (fld w 0 3)
  let pd := PReg.ofCode (fld w 6 3)
  let ps1 := PReg.ofCode (fld w 3 3)
  let ps0 := PReg.ofCode (fld w 0 3)
  match fld w 9 3 with
  | 0#3 => .instr (.addD rd rs0 rs1)
  | 1#3 => .instr (.subD rd rs0 rs1)
  | 2#3 => .instr (.andD rd rs0 rs1)
  | 3#3 => .instr (.orD rd rs0 rs1)
  | 4#3 => .instr (.xorD rd rs0 rs1)
  | 5#3 => .instr (.addP pd ps0 ps1)
  | 6#3 => .instr (.addPShl1 pd ps0 ps1)
  | _ => .instr (.addPShl2 pd ps0 ps1)

/-- COMPI2opD (30 R191) and COMPI2opP (30 R192). -/
def decodeCompI (w : Parcel) : Decoded :=
  let imm := fld w 3 7
  match fld w 10 2 with
  | 0#2 => .instr (.movImmD (.ofCode (fld w 0 3)) imm)
  | 1#2 => .instr (.addImmD (.ofCode (fld w 0 3)) imm)
  | 2#2 => .instr (.movImmP (.ofCode (fld w 0 3)) imm)
  | _ => .instr (.addImmP (.ofCode (fld w 0 3)) imm)

/-- LDSTpmod (30 R193): bits 11:9 are W, aop. -/
def decodeLdstPmod (w : Parcel) : Decoded :=
  let rr := DReg.ofCode (fld w 6 3)
  let pi := PReg.ofCode (fld w 3 3)
  let pp := PReg.ofCode (fld w 0 3)
  match fld w 9 3 with
  | 0b000#3 => .instr (.ldPmod rr pp pi)
  | 0b001#3 => .instr (.ldPmodLo rr pp pi)
  | 0b010#3 => .instr (.ldPmodHi rr pp pi)
  | 0b011#3 => .instr (.ldPmodHalfZ rr pp pi)
  | 0b100#3 => .instr (.stPmod rr pp pi)
  | 0b101#3 => .instr (.stPmodLo rr pp pi)
  | 0b110#3 => .instr (.stPmodHi rr pp pi)
  | _ => .instr (.ldPmodHalfX rr pp pi)

/-- LDST (30 R197): bits 11:6 are sz, W, aop, Z. -/
def decodeLdst (w : Parcel) : Decoded :=
  let rr := DReg.ofCode (fld w 0 3)
  let pr := PReg.ofCode (fld w 0 3)
  let pp := PReg.ofCode (fld w 3 3)
  match fld w 6 6 with
  | 0b000000#6 => .instr (.ldDInc rr pp)
  | 0b000001#6 => .instr (.ldPInc pr pp)
  | 0b000010#6 => .instr (.ldDDec rr pp)
  | 0b000011#6 => .instr (.ldPDec pr pp)
  | 0b000100#6 => .instr (.ldDInd rr pp)
  | 0b000101#6 => .instr (.ldPInd pr pp)
  | 0b001000#6 => .instr (.stDInc rr pp)
  | 0b001001#6 => .instr (.stPInc pr pp)
  | 0b001010#6 => .instr (.stDDec rr pp)
  | 0b001011#6 => .instr (.stPDec pr pp)
  | 0b001100#6 => .instr (.stDInd rr pp)
  | 0b001101#6 => .instr (.stPInd pr pp)
  | 0b010000#6 => .instr (.ldHalfZInc rr pp)
  | 0b010001#6 => .instr (.ldHalfXInc rr pp)
  | 0b010010#6 => .instr (.ldHalfZDec rr pp)
  | 0b010011#6 => .instr (.ldHalfXDec rr pp)
  | 0b010100#6 => .instr (.ldHalfZInd rr pp)
  | 0b010101#6 => .instr (.ldHalfXInd rr pp)
  | 0b011000#6 => .instr (.stHalfInc rr pp)
  | 0b011010#6 => .instr (.stHalfDec rr pp)
  | 0b011100#6 => .instr (.stHalfInd rr pp)
  | 0b100000#6 => .instr (.ldByteZInc rr pp)
  | 0b100001#6 => .instr (.ldByteXInc rr pp)
  | 0b100010#6 => .instr (.ldByteZDec rr pp)
  | 0b100011#6 => .instr (.ldByteXDec rr pp)
  | 0b100100#6 => .instr (.ldByteZInd rr pp)
  | 0b100101#6 => .instr (.ldByteXInd rr pp)
  | 0b101000#6 => .instr (.stByteInc rr pp)
  | 0b101010#6 => .instr (.stByteDec rr pp)
  | 0b101100#6 => .instr (.stByteInd rr pp)
  | _ => .notInSubset

/-- dagMODim (30 R194) and dagMODik (30 R195): the words of dspLDST's space with m = 3 and aop other than 3.
Bits 9:4 are W, aop, 11, o. -/
def decodeDagMod (w : Parcel) : Decoded :=
  let i := Quad.ofCode (fld w 0 2)
  match fld w 4 6 with
  | 0b100110#6 => .instr (.addIM i (.ofCode (fld w 2 2)))
  | 0b100111#6 => .instr (.subIM i (.ofCode (fld w 2 2)))
  | 0b110110#6 =>
    match fld w 2 2 with
    | 0#2 => .instr (.addI2 i)
    | 1#2 => .instr (.subI2 i)
    | 2#2 => .instr (.addI4 i)
    | _ => .instr (.subI4 i)
  | _ => .notInSubset

/-- dspLDST (30 R196): bits 9:5 are W, aop, m. -/
def decodeDspLdst (w : Parcel) : Decoded :=
  let rr := DReg.ofCode (fld w 0 3)
  let i := Quad.ofCode (fld w 3 2)
  match fld w 7 3 with
  | 0b011#3 => .instr (.ldIMod rr i (.ofCode (fld w 5 2)))
  | 0b111#3 => .instr (.stIMod rr i (.ofCode (fld w 5 2)))
  | _ =>
    match fld w 5 5 with
    | 0b00000#5 => .instr (.ldIInc rr i)
    | 0b00001#5 => .instr (.ldILoInc rr i)
    | 0b00010#5 => .instr (.ldIHiInc rr i)
    | 0b00100#5 => .instr (.ldIDec rr i)
    | 0b00101#5 => .instr (.ldILoDec rr i)
    | 0b00110#5 => .instr (.ldIHiDec rr i)
    | 0b01000#5 => .instr (.ldIInd rr i)
    | 0b01001#5 => .instr (.ldILoInd rr i)
    | 0b01010#5 => .instr (.ldIHiInd rr i)
    | 0b10000#5 => .instr (.stIInc rr i)
    | 0b10001#5 => .instr (.stILoInc rr i)
    | 0b10010#5 => .instr (.stIHiInc rr i)
    | 0b10100#5 => .instr (.stIDec rr i)
    | 0b10101#5 => .instr (.stILoDec rr i)
    | 0b10110#5 => .instr (.stIHiDec rr i)
    | 0b11000#5 => .instr (.stIInd rr i)
    | 0b11001#5 => .instr (.stILoInd rr i)
    | 0b11010#5 => .instr (.stIHiInd rr i)
    | _ => decodeDagMod w

/-- LDSTii (30 R199) and LDSTiiFP (30 R198): bits 12:10 are W, op. -/
def decodeLdstIi (w : Parcel) : Decoded :=
  let rr := DReg.ofCode (fld w 0 3)
  let pr := PReg.ofCode (fld w 0 3)
  let pp := PReg.ofCode (fld w 3 3)
  let off := fld w 6 4
  let offFp := fld w 4 5
  match fld w 10 3 with
  | 0b000#3 => .instr (.ldDOff rr pp off)
  | 0b001#3 => .instr (.ldHalfZOff rr pp off)
  | 0b010#3 => .instr (.ldHalfXOff rr pp off)
  | 0b011#3 => .instr (.ldPOff pr pp off)
  | 0b100#3 => .instr (.stDOff rr pp off)
  | 0b101#3 => .instr (.stHalfOff rr pp off)
  | 0b111#3 => .instr (.stPOff pr pp off)
  | _ =>
    match fld w 9 1, fld w 3 1 with
    | 0#1, 0#1 => .instr (.ldDFp rr offFp)
    | 0#1, _ => .instr (.ldPFp pr offFp)
    | _, 0#1 => .instr (.stDFp rr offFp)
    | _, _ => .instr (.stPFp pr offFp)

/-- A 16-bit instruction (30 R208). -/
def decode16 (w : Parcel) : Decoded :=
  match fld w 12 4 with
  | 0#4 => decodeGroup0 w
  | 1#4 => decodeBrcc w
  | 2#4 => .instr (.jumpShort (fld w 0 12))
  | 3#4 => decodeRegMv w
  | 4#4 => decodeGroup4 w
  | 5#4 => decodeComp3 w
  | 6#4 => decodeCompI w
  | 8#4 => decodeLdstPmod w
  | 9#4 => if fld w 10 2 = 0b11#2 then decodeDspLdst w else decodeLdst w
  | 10#4 => decodeLdstIi w
  | 11#4 => decodeLdstIi w
  | _ => .notInSubset

/-- LoopSetup (30 R200). -/
def decodeLoopSetup (hw0 hw1 : Parcel) : Decoded :=
  let c := LoopNo.ofCode (fld hw0 4 1)
  let soff := fld hw0 0 4
  let pp := PReg.ofCode (fld hw1 12 3)
  let eoff := fld hw1 0 10
  if fld hw1 10 2 ≠ 0#2 ∨ fld hw1 15 1 ≠ 0#1 then .notInSubset
  else
    match fld hw0 5 2 with
    | 0#2 => if fld hw1 12 3 = 0#3 then .instr (.lsetup c soff eoff) else .notInSubset
    | 1#2 => .instr (.lsetupP c soff pp eoff)
    | 3#2 => .instr (.lsetupPHalf c soff pp eoff)
    | _ => .notInSubset

/-- LDIMMhalf (30 R201): bits 7:5 of the first parcel are Z, H, S. -/
def decodeLdImm (hw0 hw1 : Parcel) : Decoded :=
  let reg := GenReg.ofCode (fld hw0 3 2) (fld hw0 0 3)
  match fld hw0 5 3 with
  | 0b000#3 => .instr (.ldiLo reg hw1)
  | 0b010#3 => .instr (.ldiHi reg hw1)
  | 0b100#3 => .instr (.ldiZ reg hw1)
  | 0b001#3 => .instr (.ldiX reg hw1)
  | _ => .notInSubset

/-- LDSTidxI (30 R203): bits 9:6 of the first parcel are W, Z, sz. -/
def decodeLdstIdx (hw0 hw1 : Parcel) : Decoded :=
  let rr := DReg.ofCode (fld hw0 0 3)
  let pr := PReg.ofCode (fld hw0 0 3)
  let pp := PReg.ofCode (fld hw0 3 3)
  match fld hw0 6 4 with
  | 0b0000#4 => .instr (.ldDIdx rr pp hw1)
  | 0b0100#4 => .instr (.ldPIdx pr pp hw1)
  | 0b1000#4 => .instr (.stDIdx rr pp hw1)
  | 0b1100#4 => .instr (.stPIdx pr pp hw1)
  | 0b0001#4 => .instr (.ldHalfZIdx rr pp hw1)
  | 0b0101#4 => .instr (.ldHalfXIdx rr pp hw1)
  | 0b1001#4 => .instr (.stHalfIdx rr pp hw1)
  | 0b0010#4 => .instr (.ldByteZIdx rr pp hw1)
  | 0b0110#4 => .instr (.ldByteXIdx rr pp hw1)
  | 0b1010#4 => .instr (.stByteIdx rr pp hw1)
  | _ => .notInSubset

/-- A 32-bit instruction, first parcel first (30 R171, R208). -/
def decode32 (hw0 hw1 : Parcel) : Decoded :=
  match fld hw0 8 8 with
  | 0xE0#8 => if fld hw0 7 1 = 1#1 then decodeLoopSetup hw0 hw1 else .notInSubset
  | 0xE1#8 => decodeLdImm hw0 hw1
  | 0xE2#8 => .instr (.jumpLong (fld hw0 0 8 ++ hw1))
  | 0xE3#8 => .instr (.callLong (fld hw0 0 8 ++ hw1))
  | 0xE4#8 | 0xE5#8 | 0xE6#8 | 0xE7#8 => decodeLdstIdx hw0 hw1
  | 0xE8#8 =>
    match fld hw0 0 8 with
    | 0#8 => .instr (.link hw1)
    | 1#8 => if hw1 = 0#16 then .instr .unlink else .notInSubset
    | _ => .notInSubset
  | _ => .notInSubset

/-- The instruction at the head of a sequence of parcels, and the parcels after it. A sequence that ends inside an
instruction holds none. -/
def decodeParcels (ps : List Parcel) : Decoded × List Parcel :=
  match ps with
  | [] => (.notInSubset, [])
  | hw0 :: rest =>
    match lengthOf hw0, rest with
    | .two, _ => (decode16 hw0, rest)
    | .four, hw1 :: rest' => (decode32 hw0 hw1, rest')
    | .four, [] => (.notInSubset, [])
    | .eight, _ => (.multiIssue, rest.drop 3)

/-! ### Bytes (20 R132) -/

/-- A parcel as its two bytes, the low byte first (20 R132). -/
def parcelBytes (w : Parcel) : List Byte := [w.extractLsb' 0 8, w.extractLsb' 8 8]

/-- Parcels from bytes, each little-endian; a byte left over makes no parcel. -/
def parcelsOfBytes : List Byte → List Parcel
  | lo :: hi :: rest => (hi ++ lo) :: parcelsOfBytes rest
  | _ => []

/-- The instruction at the head of a sequence of bytes. -/
def decodeBytes (bs : List Byte) : Decoded := (decodeParcels (parcelsOfBytes bs)).1

/-- The parcels of a table word of `nbits` bits, first parcel first: a 32-bit row's word holds the first parcel in
bits 31:16 (30 R171). Log entry 11. -/
def tableParcels (nbits w : Nat) : List Parcel :=
  if nbits ≤ 16 then [BitVec.ofNat 16 w] else [BitVec.ofNat 16 (w / 65536), BitVec.ofNat 16 w]

/-- The instruction the decoder reads from a table word laid out as the hardware stores it. -/
def decodeTableWord (nbits w : Nat) : Option Instr :=
  match decodeBytes ((tableParcels nbits w).flatMap parcelBytes) with
  | .instr i => some i
  | _ => none

/-! ### The encoder -/

/-- The number of a data register. -/
def DReg.code : DReg → BitVec 3
  | .r0 => 0#3 | .r1 => 1#3 | .r2 => 2#3 | .r3 => 3#3 | .r4 => 4#3 | .r5 => 5#3 | .r6 => 6#3 | .r7 => 7#3

/-- The number of a pointer register. -/
def PReg.code : PReg → BitVec 3
  | .p0 => 0#3 | .p1 => 1#3 | .p2 => 2#3 | .p3 => 3#3 | .p4 => 4#3 | .p5 => 5#3 | .sp => 6#3 | .fp => 7#3

/-- The number within a set I, M, B or L. -/
def Quad.code : Quad → BitVec 2
  | .n0 => 0#2 | .n1 => 1#2 | .n2 => 2#2 | .n3 => 3#2

/-- The loop number bit. -/
def LoopNo.code : LoopNo → BitVec 1
  | .k0 => 0#1 | .k1 => 1#1

/-- The 2-bit group of a register of groups 0 to 3. -/
def GenReg.grp : GenReg → BitVec 2
  | .d _ => 0#2 | .p _ => 1#2 | .i _ | .m _ => 2#2 | .b _ | .l _ => 3#2

/-- The number of a register within its group. -/
def GenReg.num : GenReg → BitVec 3
  | .d r => r.code
  | .p r => r.code
  | .i n | .b n => 0#1 ++ n.code
  | .m n | .l n => 1#1 ++ n.code

/-- The group of a register (10 R73). -/
def Reg.grp : Reg → BitVec 3
  | .gen g => 0#1 ++ g.grp
  | .a0x | .a0w | .a1x | .a1w | .astat | .rets => 4#3
  | .lc _ | .lt _ | .lb _ | .cycles | .cycles2 => 6#3
  | .usp | .seqstat | .syscfg | .reti | .retx | .retn | .rete | .emudat => 7#3

/-- The number of a register within its group (10 R73). -/
def Reg.num : Reg → BitVec 3
  | .gen g => g.num
  | .a0x => 0#3 | .a0w => 1#3 | .a1x => 2#3 | .a1w => 3#3 | .astat => 6#3 | .rets => 7#3
  | .lc .k0 => 0#3 | .lt .k0 => 1#3 | .lb .k0 => 2#3 | .lc .k1 => 3#3 | .lt .k1 => 4#3 | .lb .k1 => 5#3
  | .cycles => 6#3 | .cycles2 => 7#3
  | .usp => 0#3 | .seqstat => 1#3 | .syscfg => 2#3 | .reti => 3#3
  | .retx => 4#3 | .retn => 5#3 | .rete => 6#3 | .emudat => 7#3

/-- The selector bit of a data or pointer register (30 R180). -/
def DPReg.sel : DPReg → BitVec 1
  | .d _ => 0#1 | .p _ => 1#1

/-- The number of a data or pointer register. -/
def DPReg.num : DPReg → BitVec 3
  | .d r => r.code | .p r => r.code

/-- The bit number in ASTAT (10 R64). -/
def AstatBit.code : AstatBit → BitVec 5
  | .az => 0#5 | .an => 1#5 | .aq => 6#5 | .ac0 => 12#5 | .ac1 => 13#5 | .av0 => 16#5 | .av0s => 17#5
  | .av1 => 18#5 | .av1s => 19#5 | .v => 24#5 | .vs => 25#5

/-- A one-bit field. -/
def bitField (b : Bool) : BitVec 1 := BitVec.ofBool b

def encProg (f p : BitVec 4) : List Parcel := [0#8 ++ f ++ p]
def encProg3 (f : BitVec 4) (n : BitVec 3) : List Parcel := [0#8 ++ f ++ 0#1 ++ n]
def encPushPop (wr : BitVec 1) (r : Reg) : List Parcel := [0x01#8 ++ 0#1 ++ wr ++ r.grp ++ r.num]
def encCache (post : Bool) (op : BitVec 2) (p : PReg) : List Parcel := [0x02#8 ++ 0b01#2 ++ bitField post ++ op ++ p.code]
def encCcReg (op : BitVec 2) (n : BitVec 3) : List Parcel := [0x02#8 ++ 0#3 ++ op ++ n]
def encCcStat (dop : BitVec 3) (b : AstatBit) : List Parcel := [0x03#8 ++ dop ++ b.code]
def encMult (dpw dr pr : BitVec 3) : List Parcel := [0b0000010#7 ++ dpw ++ dr ++ pr]
def encCcMv (t : BitVec 1) (dst src : DPReg) : List Parcel :=
  [0b0000011#7 ++ t ++ dst.sel ++ src.sel ++ dst.num ++ src.num]
def encCcFlag (iog : BitVec 5) (y x : BitVec 3) : List Parcel := [0b00001#5 ++ iog ++ y ++ x]
def encBrcc (t : BitVec 1) (bp : Bool) (off : BitVec 10) : List Parcel := [0b0001#4 ++ t ++ bitField bp ++ off]
def encGrp4 (op : BitVec 5) (s d : BitVec 3) : List Parcel := [0b0100#4 ++ 0#1 ++ op ++ s ++ d]
def encLogi (op : BitVec 3) (imm : BitVec 5) (d : DReg) : List Parcel := [0b01001#5 ++ op ++ imm ++ d.code]
def encComp3 (op d s1 s0 : BitVec 3) : List Parcel := [0b0101#4 ++ op ++ d ++ s1 ++ s0]
def encCompI (op : BitVec 2) (imm : BitVec 7) (d : BitVec 3) : List Parcel := [0b0110#4 ++ op ++ imm ++ d]
def encPmod (waop : BitVec 3) (rr : DReg) (pi pp : PReg) : List Parcel :=
  [0b1000#4 ++ waop ++ rr.code ++ pi.code ++ pp.code]
def encLdst (op : BitVec 6) (pp : PReg) (r : BitVec 3) : List Parcel := [0b1001#4 ++ op ++ pp.code ++ r]
def encDsp (op : BitVec 5) (i : Quad) (rr : DReg) : List Parcel := [0b100111#6 ++ op ++ i.code ++ rr.code]
def encDagM (op : BitVec 6) (m i : Quad) : List Parcel := [0b100111#6 ++ op ++ m.code ++ i.code]
def encDagK (op : BitVec 2) (i : Quad) : List Parcel := [0b100111110110#12 ++ op ++ i.code]
def encLdstIi (wop : BitVec 3) (off : BitVec 4) (pp : PReg) (r : BitVec 3) : List Parcel :=
  [0b101#3 ++ wop ++ off ++ pp.code ++ r]
def encLdstFp (wr : BitVec 1) (off : BitVec 5) (sel : BitVec 1) (r : BitVec 3) : List Parcel :=
  [0b101110#6 ++ wr ++ off ++ sel ++ r]
def encLoop (rop : BitVec 2) (c : LoopNo) (soff : BitVec 4) (p : BitVec 3) (eoff : BitVec 10) : List Parcel :=
  [0b111000001#9 ++ rop ++ c.code ++ soff, 0#1 ++ p ++ 0#2 ++ eoff]
def encLdImm (zhs : BitVec 3) (g : GenReg) (imm : BitVec 16) : List Parcel := [0xE1#8 ++ zhs ++ g.grp ++ g.num, imm]
def encCall (s : BitVec 1) (off : BitVec 24) : List Parcel :=
  [0b1110001#7 ++ s ++ off.extractLsb' 16 8, off.extractLsb' 0 16]
def encIdx (wzsz : BitVec 4) (pp : PReg) (r : BitVec 3) (off : BitVec 16) : List Parcel :=
  [0b111001#6 ++ wzsz ++ pp.code ++ r, off]

/-- The parcels of an instruction, first parcel first (30 R176 to R204). -/
def encode : Instr → List Parcel
  | .nop => encProg 0#4 0#4
  | .rts => encProg 1#4 0#4
  | .rti => encProg 1#4 1#4
  | .rtx => encProg 1#4 2#4
  | .rtn => encProg 1#4 3#4
  | .rte => encProg 1#4 4#4
  | .idle => encProg 2#4 0#4
  | .csync => encProg 2#4 3#4
  | .ssync => encProg 2#4 4#4
  | .emuexcpt => encProg 2#4 5#4
  | .cli rd => encProg3 3#4 rd.code
  | .sti rd => encProg3 4#4 rd.code
  | .jumpReg pn => encProg3 5#4 pn.code
  | .callReg pn => encProg3 6#4 pn.code
  | .callPcReg pn => encProg3 7#4 pn.code
  | .jumpPcReg pn => encProg3 8#4 pn.code
  | .raise n => encProg 9#4 n
  | .excpt n => encProg 10#4 n
  | .testset pn => encProg3 11#4 pn.code
  | .popReg reg => encPushPop 0#1 reg
  | .pushReg reg => encPushPop 1#1 reg
  | .ccToD rd => encCcReg 0#2 rd.code
  | .dToCc rs => encCcReg 1#2 rs.code
  | .notCc => encCcReg 3#2 0#3
  | .prefetch post pp => encCache post 0#2 pp
  | .flushinv post pp => encCache post 1#2 pp
  | .flush post pp => encCache post 2#2 pp
  | .iflush post pp => encCache post 3#2 pp
  | .ccSetBit b => encCcStat 0#3 b
  | .ccOrBit b => encCcStat 1#3 b
  | .ccAndBit b => encCcStat 2#3 b
  | .ccXorBit b => encCcStat 3#3 b
  | .bitSetCc b => encCcStat 4#3 b
  | .bitOrCc b => encCcStat 5#3 b
  | .bitAndCc b => encCcStat 6#3 b
  | .bitXorCc b => encCcStat 7#3 b
  | .popMultDP dr pr => encMult 0b110#3 dr.code pr.code
  | .popMultD dr => encMult 0b100#3 dr.code 0#3
  | .popMultP pr => encMult 0b010#3 0#3 pr.code
  | .pushMultDP dr pr => encMult 0b111#3 dr.code pr.code
  | .pushMultD dr => encMult 0b101#3 dr.code 0#3
  | .pushMultP pr => encMult 0b011#3 0#3 pr.code
  | .movIfNotCc dst src => encCcMv 0#1 dst src
  | .movIfCc dst src => encCcMv 1#1 dst src
  | .cmpEqD rx ry => encCcFlag 0b00000#5 ry.code rx.code
  | .cmpEqDImm rx imm => encCcFlag 0b10000#5 imm rx.code
  | .cmpEqP px py => encCcFlag 0b00001#5 py.code px.code
  | .cmpEqPImm px imm => encCcFlag 0b10001#5 imm px.code
  | .cmpLtD rx ry => encCcFlag 0b00010#5 ry.code rx.code
  | .cmpLtDImm rx imm => encCcFlag 0b10010#5 imm rx.code
  | .cmpLtP px py => encCcFlag 0b00011#5 py.code px.code
  | .cmpLtPImm px imm => encCcFlag 0b10011#5 imm px.code
  | .cmpLeD rx ry => encCcFlag 0b00100#5 ry.code rx.code
  | .cmpLeDImm rx imm => encCcFlag 0b10100#5 imm rx.code
  | .cmpLeP px py => encCcFlag 0b00101#5 py.code px.code
  | .cmpLePImm px imm => encCcFlag 0b10101#5 imm px.code
  | .cmpLtuD rx ry => encCcFlag 0b00110#5 ry.code rx.code
  | .cmpLtuDImm rx imm => encCcFlag 0b10110#5 imm rx.code
  | .cmpLtuP px py => encCcFlag 0b00111#5 py.code px.code
  | .cmpLtuPImm px imm => encCcFlag 0b10111#5 imm px.code
  | .cmpLeuD rx ry => encCcFlag 0b01000#5 ry.code rx.code
  | .cmpLeuDImm rx imm => encCcFlag 0b11000#5 imm rx.code
  | .cmpLeuP px py => encCcFlag 0b01001#5 py.code px.code
  | .cmpLeuPImm px imm => encCcFlag 0b11001#5 imm px.code
  | .cmpEqAcc => encCcFlag 0b01010#5 0#3 0#3
  | .cmpLtAcc => encCcFlag 0b01100#5 0#3 0#3
  | .cmpLeAcc => encCcFlag 0b01110#5 0#3 0#3
  | .jumpIfNotCc bp offset => encBrcc 0#1 bp offset
  | .jumpIfCc bp offset => encBrcc 1#1 bp offset
  | .jumpShort offset => [0b0010#4 ++ offset]
  | .regMove dst src => [0b0011#4 ++ dst.grp ++ src.grp ++ dst.num ++ src.num]
  | .asrD rd rs => encGrp4 0b00000#5 rs.code rd.code
  | .lsrD rd rs => encGrp4 0b00001#5 rs.code rd.code
  | .lslD rd rs => encGrp4 0b00010#5 rs.code rd.code
  | .mulD rd rs => encGrp4 0b00011#5 rs.code rd.code
  | .sextHalf rd rs => encGrp4 0b01010#5 rs.code rd.code
  | .zextHalf rd rs => encGrp4 0b01011#5 rs.code rd.code
  | .sextByte rd rs => encGrp4 0b01100#5 rs.code rd.code
  | .zextByte rd rs => encGrp4 0b01101#5 rs.code rd.code
  | .negD rd rs => encGrp4 0b01110#5 rs.code rd.code
  | .notD rd rs => encGrp4 0b01111#5 rs.code rd.code
  | .subP pd ps => encGrp4 0b10000#5 ps.code pd.code
  | .shl2P pd ps => encGrp4 0b10001#5 ps.code pd.code
  | .shr2P pd ps => encGrp4 0b10011#5 ps.code pd.code
  | .shr1P pd ps => encGrp4 0b10100#5 ps.code pd.code
  | .sumShl1P pd ps => encGrp4 0b10110#5 ps.code pd.code
  | .sumShl2P pd ps => encGrp4 0b10111#5 ps.code pd.code
  | .bittstNot rd imm => encLogi 0#3 imm rd
  | .bittst rd imm => encLogi 1#3 imm rd
  | .bitset rd imm => encLogi 2#3 imm rd
  | .bittgl rd imm => encLogi 3#3 imm rd
  | .bitclr rd imm => encLogi 4#3 imm rd
  | .asrImm rd imm => encLogi 5#3 imm rd
  | .lsrImm rd imm => encLogi 6#3 imm rd
  | .lslImm rd imm => encLogi 7#3 imm rd
  | .addD rd rs0 rs1 => encComp3 0#3 rd.code rs1.code rs0.code
  | .subD rd rs0 rs1 => encComp3 1#3 rd.code rs1.code rs0.code
  | .andD rd rs0 rs1 => encComp3 2#3 rd.code rs1.code rs0.code
  | .orD rd rs0 rs1 => encComp3 3#3 rd.code rs1.code rs0.code
  | .xorD rd rs0 rs1 => encComp3 4#3 rd.code rs1.code rs0.code
  | .addP pd ps0 ps1 => encComp3 5#3 pd.code ps1.code ps0.code
  | .addPShl1 pd ps0 ps1 => encComp3 6#3 pd.code ps1.code ps0.code
  | .addPShl2 pd ps0 ps1 => encComp3 7#3 pd.code ps1.code ps0.code
  | .movImmD rd imm => encCompI 0#2 imm rd.code
  | .addImmD rd imm => encCompI 1#2 imm rd.code
  | .movImmP pd imm => encCompI 2#2 imm pd.code
  | .addImmP pd imm => encCompI 3#2 imm pd.code
  | .ldPmod rr pp pi => encPmod 0b000#3 rr pi pp
  | .ldPmodLo rr pp pi => encPmod 0b001#3 rr pi pp
  | .ldPmodHi rr pp pi => encPmod 0b010#3 rr pi pp
  | .ldPmodHalfZ rr pp pi => encPmod 0b011#3 rr pi pp
  | .stPmod rr pp pi => encPmod 0b100#3 rr pi pp
  | .stPmodLo rr pp pi => encPmod 0b101#3 rr pi pp
  | .stPmodHi rr pp pi => encPmod 0b110#3 rr pi pp
  | .ldPmodHalfX rr pp pi => encPmod 0b111#3 rr pi pp
  | .ldDInc rr pp => encLdst 0b000000#6 pp rr.code
  | .ldPInc pr pp => encLdst 0b000001#6 pp pr.code
  | .ldHalfZInc rr pp => encLdst 0b010000#6 pp rr.code
  | .ldHalfXInc rr pp => encLdst 0b010001#6 pp rr.code
  | .ldByteZInc rr pp => encLdst 0b100000#6 pp rr.code
  | .ldByteXInc rr pp => encLdst 0b100001#6 pp rr.code
  | .stDInc rr pp => encLdst 0b001000#6 pp rr.code
  | .stPInc pr pp => encLdst 0b001001#6 pp pr.code
  | .stHalfInc rr pp => encLdst 0b011000#6 pp rr.code
  | .stByteInc rr pp => encLdst 0b101000#6 pp rr.code
  | .ldDDec rr pp => encLdst 0b000010#6 pp rr.code
  | .ldPDec pr pp => encLdst 0b000011#6 pp pr.code
  | .ldHalfZDec rr pp => encLdst 0b010010#6 pp rr.code
  | .ldHalfXDec rr pp => encLdst 0b010011#6 pp rr.code
  | .ldByteZDec rr pp => encLdst 0b100010#6 pp rr.code
  | .ldByteXDec rr pp => encLdst 0b100011#6 pp rr.code
  | .stDDec rr pp => encLdst 0b001010#6 pp rr.code
  | .stPDec pr pp => encLdst 0b001011#6 pp pr.code
  | .stHalfDec rr pp => encLdst 0b011010#6 pp rr.code
  | .stByteDec rr pp => encLdst 0b101010#6 pp rr.code
  | .ldDInd rr pp => encLdst 0b000100#6 pp rr.code
  | .ldPInd pr pp => encLdst 0b000101#6 pp pr.code
  | .ldHalfZInd rr pp => encLdst 0b010100#6 pp rr.code
  | .ldHalfXInd rr pp => encLdst 0b010101#6 pp rr.code
  | .ldByteZInd rr pp => encLdst 0b100100#6 pp rr.code
  | .ldByteXInd rr pp => encLdst 0b100101#6 pp rr.code
  | .stDInd rr pp => encLdst 0b001100#6 pp rr.code
  | .stPInd pr pp => encLdst 0b001101#6 pp pr.code
  | .stHalfInd rr pp => encLdst 0b011100#6 pp rr.code
  | .stByteInd rr pp => encLdst 0b101100#6 pp rr.code
  | .ldIInc rr i => encDsp 0b00000#5 i rr
  | .ldILoInc rr i => encDsp 0b00001#5 i rr
  | .ldIHiInc rr i => encDsp 0b00010#5 i rr
  | .stIInc rr i => encDsp 0b10000#5 i rr
  | .stILoInc rr i => encDsp 0b10001#5 i rr
  | .stIHiInc rr i => encDsp 0b10010#5 i rr
  | .ldIDec rr i => encDsp 0b00100#5 i rr
  | .ldILoDec rr i => encDsp 0b00101#5 i rr
  | .ldIHiDec rr i => encDsp 0b00110#5 i rr
  | .stIDec rr i => encDsp 0b10100#5 i rr
  | .stILoDec rr i => encDsp 0b10101#5 i rr
  | .stIHiDec rr i => encDsp 0b10110#5 i rr
  | .ldIInd rr i => encDsp 0b01000#5 i rr
  | .ldILoInd rr i => encDsp 0b01001#5 i rr
  | .ldIHiInd rr i => encDsp 0b01010#5 i rr
  | .stIInd rr i => encDsp 0b11000#5 i rr
  | .stILoInd rr i => encDsp 0b11001#5 i rr
  | .stIHiInd rr i => encDsp 0b11010#5 i rr
  | .ldIMod rr i m => encDsp (0b011#3 ++ m.code) i rr
  | .stIMod rr i m => encDsp (0b111#3 ++ m.code) i rr
  | .addIM i m => encDagM 0b100110#6 m i
  | .subIM i m => encDagM 0b100111#6 m i
  | .addI2 i => encDagK 0#2 i
  | .subI2 i => encDagK 1#2 i
  | .addI4 i => encDagK 2#2 i
  | .subI4 i => encDagK 3#2 i
  | .ldDOff rr pp offset => encLdstIi 0b000#3 offset pp rr.code
  | .ldHalfZOff rr pp offset => encLdstIi 0b001#3 offset pp rr.code
  | .ldHalfXOff rr pp offset => encLdstIi 0b010#3 offset pp rr.code
  | .ldPOff pr pp offset => encLdstIi 0b011#3 offset pp pr.code
  | .stDOff rr pp offset => encLdstIi 0b100#3 offset pp rr.code
  | .stHalfOff rr pp offset => encLdstIi 0b101#3 offset pp rr.code
  | .stPOff pr pp offset => encLdstIi 0b111#3 offset pp pr.code
  | .ldDFp rr offset => encLdstFp 0#1 offset 0#1 rr.code
  | .ldPFp pr offset => encLdstFp 0#1 offset 1#1 pr.code
  | .stDFp rr offset => encLdstFp 1#1 offset 0#1 rr.code
  | .stPFp pr offset => encLdstFp 1#1 offset 1#1 pr.code
  | .lsetup c soffset eoffset => encLoop 0#2 c soffset 0#3 eoffset
  | .lsetupP c soffset pp eoffset => encLoop 1#2 c soffset pp.code eoffset
  | .lsetupPHalf c soffset pp eoffset => encLoop 3#2 c soffset pp.code eoffset
  | .ldiLo reg imm => encLdImm 0b000#3 reg imm
  | .ldiHi reg imm => encLdImm 0b010#3 reg imm
  | .ldiZ reg imm => encLdImm 0b100#3 reg imm
  | .ldiX reg imm => encLdImm 0b001#3 reg imm
  | .jumpLong offset => encCall 0#1 offset
  | .callLong offset => encCall 1#1 offset
  | .ldDIdx rr pp offset => encIdx 0b0000#4 pp rr.code offset
  | .ldPIdx pr pp offset => encIdx 0b0100#4 pp pr.code offset
  | .stDIdx rr pp offset => encIdx 0b1000#4 pp rr.code offset
  | .stPIdx pr pp offset => encIdx 0b1100#4 pp pr.code offset
  | .ldHalfZIdx rr pp offset => encIdx 0b0001#4 pp rr.code offset
  | .ldHalfXIdx rr pp offset => encIdx 0b0101#4 pp rr.code offset
  | .stHalfIdx rr pp offset => encIdx 0b1001#4 pp rr.code offset
  | .ldByteZIdx rr pp offset => encIdx 0b0010#4 pp rr.code offset
  | .ldByteXIdx rr pp offset => encIdx 0b0110#4 pp rr.code offset
  | .stByteIdx rr pp offset => encIdx 0b1010#4 pp rr.code offset
  | .link framesize => [0xE800#16, framesize]
  | .unlink => [0xE801#16, 0#16]

end Sys2Proof
end

