-- ==== Sys2Proof/Machine/Fetch.lean ====
section
/-! DEFINITION. What a step does around an instruction: what can arrive at the boundary (60 R442), the routing of the SIC (60 R452), and the fetch of the instruction's parcels (30 R171 to R173, 20 R133, R136, R143). -/

namespace Sys2Proof.Machine

/-! ### The SIC

How the SIC routes the requests of the peripherals (60 R452). No device makes a move in the model, so SIC_ISR stays as it is
and no step routes a request (60 R442 (c), R480; log entry 6). -/

/-- The source's field of SIC_IARn (60 R452): source p has bits `4*(p mod 8)+3 : 4*(p mod 8)` of SIC_IAR(p div 8). -/
def sicField (y : SysRegs) (p : Nat) : Nat :=
  let w := if p / 8 = 0 then y.sicIar0 else if p / 8 = 1 then y.sicIar1 else y.sicIar2
  (w.extractLsb' (4 * (p % 8)) 4).toNat

/-- ILAT after the request of source `p` (60 R452): passed if SIC_IMASK enables it, to the event 7 + v of its field. That a
field v of 9 to 15, on which the rule is silent, routes nowhere is the model's choice: DEDUCED, log entry 7. -/
def latchSource (y : SysRegs) (ilat : Word) (p : Nat) : Word :=
  if bit y.sicIsr p && bit y.sicImask p && decide (sicField y p ≤ 8) then setBit ilat (7 + sicField y p) else ilat

/-- ILAT with the requests that SIC_ISR shows passed on, for the 24 peripheral sources (60 R452). -/
def latchSources (y : SysRegs) (ilat : Word) : Word := (List.range 24).foldl (latchSource y) ilat

/-! ### The boundary -/

/-- The NMI pin at one boundary (60 R442 (a), R450): a request sets ILAT[2]. -/
def State.nmiPin (s : State) (e : Arrival) : State :=
  { s with ilat := if e.nmi then setBit s.ilat 2 else s.ilat }

/-- The core timer at one boundary (60 R442 (b)): while it runs it may set ILAT[6] and TINT together (60 R461). -/
def State.timerFires (s : State) (e : Arrival) : State :=
  let fires := e.coreTimer && s.timer.runs
  { s with
    ilat := if fires then setBit s.ilat 6 else s.ilat
    timer := if fires then { s.timer with tcntl := setBit s.timer.tcntl 3 } else s.timer }

/-! ### The fetch -/

/-- `MemFetch(a)` (30 R172): an odd address raises InstrMisaligned (20 R133); a region without fetch is refused (20
R136, R138); so are bytes the core stored to in this run (20 R143); a byte without value faults (10 R91). -/
def fetchParcel (s : State) (a : Word) : Res Parcel :=
  if bit a 0 then .trap .instrMisaligned
  else
    match spanBar (fetchBar s.platform) a.toNat 2 with
    | some r => .refused r
    | none =>
      if (span a.toNat 2).any (fun x => s.stored.contains x) then .refused .storeToCode
      else
        match s.mem.readBytes a.toNat 2 with
        | some bs => .ok ((joinBytes bs).setWidth 16)
        | none => .fault .readOfUnwritten

/-- What the decoder's answer means for the step (30 R173, R210). -/
def admitted : Decoded → Res Instr
  | .instr i => .ok i
  | .notInSubset => .refused .notInSubset
  | .multiIssue => .refused .multiIssue

/-- The instruction at pc and its length in bytes; a 64-bit one is refused from its first parcel (30 R171, R173). -/
def fetchInstr (s : State) : Res (Instr × Nat) :=
  (fetchParcel s s.pc).bind fun hw0 =>
    match lengthOf hw0 with
    | .two => (admitted (decodeParcels [hw0]).1).bind fun i => .ok (i, 2)
    | .four =>
      (fetchParcel s (s.pc + 2#32)).bind fun hw1 =>
        (admitted (decodeParcels [hw0, hw1]).1).bind fun i => .ok (i, 4)
    | .eight => .refused .multiIssue

/-- The addresses an instruction was fetched from join `fetched` (20 R143). -/
def State.noteFetch (s : State) (len : Nat) : State :=
  { s with fetched := s.fetched.insertAll (span s.pc.toNat len) }

end Sys2Proof.Machine
end

