-- ==== Sys2Proof/Machine/Agents.lean ====
section
/-! DEFINITION. The agents (00 R22) and what each does in its turn, with the four outcomes of 00 R21. -/

namespace Sys2Proof.Machine

/-- The instruction at pc runs (42 R300 steps 3 to 5). -/
def State.runInstr (s : State) : Result :=
  match fetchInstr s with
  | .ok (i, len) => exec i (s.noteFetch len)
  | .trap c => takeException s c
  | .fault f => .fault f
  | .refused r => .refused r

/-- The turn of the core (42 R300): an event is entered, or else the instruction at pc runs. In the Idle state without an
event to accept the core is stuck (42 R346). -/
def State.coreMove (s : State) : Move :=
  match s.acceptedEvent with
  | some k => .next (s.enterEvent k s.pc)
  | none =>
    if s.idle then .stuck
    else
      match s.runInstr with
      | .next t => .next t
      | .fault f => .fault f
      | .refused r => .refused r

/-- The turn of each agent. The two kinds of DMA never have a step (20 R142, 60 R480), and of the peripherals only the core
timer has one (60 R461, R480); it and the external world have theirs where `arrivals` says that something arrives (60 R442; log entry 6). -/
def Agent.move : Agent → State → Move
  | .core, s => s.coreMove
  | .peripheralDma, _ => .stuck
  | .memoryDma, _ => .stuck
  | .peripherals, s =>
    match s.arrivals with
    | [] => .stuck
    | e :: _ => .next (s.timerFires e)
  | .externalWorld, s =>
    match s.arrivals with
    | [] => .stuck
    | e :: _ => .next (s.nmiPin e)

/-- The state after the turn of an agent that is not the core; an agent without a step leaves it. -/
def State.afterTurn (s : State) (g : Agent) : State :=
  match g.move s with
  | .next t => t
  | .fault _ | .refused _ | .stuck => s

/-- The boundary before a step of the core (60 R442): every other agent has its turn, and the next entry of `arrivals` is
used up. -/
def State.boundary (s : State) : State :=
  let t := (((s.afterTurn .peripheralDma).afterTurn .memoryDma).afterTurn .externalWorld).afterTurn .peripherals
  { t with arrivals := t.arrivals.drop 1 }

/-- The turn of the core as the host's outcome, which has no `stuck`: while the core is stuck the machine goes on, and only
the other agents can change it. DESIGN CHOICE, log entry 22. -/
def State.coreTurn (s : State) : Result :=
  match Agent.core.move s with
  | .next t => .next t
  | .fault f => .fault f
  | .refused r => .refused r
  | .stuck => .next s

end Sys2Proof.Machine
end

