-- ==== Sys2Proof/Machine/Step.lean ====
section
/-! DEFINITION. The step of the core (42 R300). -/

namespace Sys2Proof.Machine

/-- One step (42 R300): the boundary, at which the environment has its turn, and then the turn of the core. -/
def step (s : State) : Host.Outcome State Fault Refusal := s.boundary.coreTurn

/-- The state with an instruction of the opcode table stored where the next step fetches: at pc, as the boot process
would have placed it (70 R505, log entry 10). The parcel after a 16-bit instruction is 0. -/
def State.withFetchWord (s : State) (nbits w : Nat) : State :=
  let bytes := ((tableParcels nbits w ++ [0#16]).take 2).flatMap parcelBytes
  { s with
    mem := s.mem.writeBytes s.pc.toNat bytes
    stored := s.stored.filter (fun a => !(span s.pc.toNat 4).contains a)
    idle := false }

end Sys2Proof.Machine
end

