-- ==== Sys2Proof/Safety.lean ====
section
/-! DEFINITION. What a good state and a safe run are, and the words in which the claims about instructions are made. -/

namespace Sys2Proof.Machine

/-! ### Runs -/

/-- The state after `n` steps, where all of them answer a next state. -/
def State.after (s : State) : Nat → Option State
  | 0 => some s
  | n + 1 =>
    match step s with
    | .next t => t.after n
    | .fault _ | .refused _ => none

/-- A run of `n` steps that neither faults nor is refused (00 R21, 60 R486). -/
def State.SafeFor (s : State) (n : Nat) : Prop := ∃ t, s.after n = some t

/-! ### Good states -/

/-- What every step keeps: canonical memory, code apart from stored data (20 R143), reserved bits at the values they
read as (10 R64 to R75, R83), bits 4:0 of IMASK at 1 (10 R74), no Emulation mode (60 R425), and even loop addresses
(41 R263). -/
structure State.Inv (s : State) : Prop where
  mem_canonical : s.mem.wf = true
  fetched_canonical : s.fetched.wf = true
  stored_canonical : s.stored.wf = true
  code_apart : ∀ a ∈ s.fetched, a ∉ s.stored
  imask_fixed : s.imask &&& 0xFFFF001F#32 = 0x1F#32
  ipend_fixed : s.ipend &&& 0xFFFF0001#32 = 0#32
  ilat_fixed : s.ilat &&& 0xFFFF001B#32 = 0#32
  tcntl_fixed : s.timer.tcntl &&& 0xFFFFFFF0#32 = 0#32
  seqstat_fixed : s.seqstat &&& 0xFFF81FC0#32 = 0#32
  syscfg_fixed : s.syscfg = 0x30#32 ∨ s.syscfg = 0x32#32
  loop0_even : s.loop0.lt.toNat % 2 = 0 ∧ s.loop0.lb.toNat % 2 = 0
  loop1_even : s.loop1.lt.toNat % 2 = 0 ∧ s.loop1.lb.toNat % 2 = 0

/-! ### The end of a sequential instruction -/

/-- The instruction at pc, `len` bytes long, does not end the address space (10 R65). -/
def State.Fits (s : State) (len : Nat) : Prop := s.pc.toNat + len < 2 ^ 32

/-- The instruction at pc is the last one of the loop, which is active (42 R330). -/
def State.Ends (s : State) (l : LoopRegs) : Prop := l.lc ≠ 0#32 ∧ l.lb = s.pc

/-- A loop's counter after the pass that falls out, or after an instruction that does not end the loop. -/
def State.FellThrough (s : State) (l l' : LoopRegs) : Prop :=
  l'.lt = l.lt ∧ l'.lb = l.lb ∧ (s.Ends l → l.lc.toNat = 1 ∧ l'.lc = 0#32) ∧ (¬ s.Ends l → l'.lc = l.lc)

/-- A loop that goes back to its top. -/
def State.GoesBack (s : State) (l l' : LoopRegs) : Prop :=
  s.Ends l ∧ l'.lt = l.lt ∧ l'.lb = l.lb ∧ l'.lc.toNat + 1 = l.lc.toNat ∧ 1 ≤ l'.lc.toNat

/-- The next address and the loop counters after a sequential instruction of `len` bytes (42 R300 step 5, R330):
loop 1 goes back, or else loop 0 goes back, or else the next address in order follows. -/
def State.LoopRule (u t : State) (len : Nat) : Prop :=
  (u.GoesBack u.loop1 t.loop1 ∧ t.loop0 = u.loop0 ∧ t.pc = u.loop1.lt) ∨
  (u.FellThrough u.loop1 t.loop1 ∧ u.GoesBack u.loop0 t.loop0 ∧ t.pc = u.loop0.lt) ∨
  (u.FellThrough u.loop1 t.loop1 ∧ u.FellThrough u.loop0 t.loop0 ∧ t.pc.toNat = u.pc.toNat + len)

/-- `t` is `u` with a sequential instruction of `len` bytes at its end: only pc and the loop counters differ. -/
def State.Advanced (u t : State) (len : Nat) : Prop :=
  t = { u with pc := t.pc, loop0 := t.loop0, loop1 := t.loop1 } ∧ u.LoopRule t len

/-- An instruction that stores nothing to memory completes: from `s` it has the effects `u`, then the sequence goes
on after `len` bytes; every byte of memory reads as before. -/
def Completes (o : Result) (s u : State) (len : Nat) : Prop :=
  ∃ t, o = .next t ∧ u.Advanced t len ∧ ∀ x, t.byteAt x = s.byteAt x

/-- The `n` bytes at `a` hold the low bytes of `v`, the least significant at the lowest address (20 R131). -/
def State.Holds (s : State) (a n : Nat) (v : Word) : Prop :=
  ∀ k, k < n → s.byteAt (a + k) = some (v.extractLsb' (8 * k) 8)

/-- `t` has `n` bytes of `v` stored at `a`, every other byte of memory as `s` has it, and the addresses noted
(20 R143). -/
def State.Stored (s t : State) (a n : Nat) (v : Word) : Prop :=
  t.Holds a n v ∧ (∀ x, x < a ∨ a + n ≤ x → t.byteAt x = s.byteAt x) ∧
    ∀ x, x ∈ t.stored ↔ x ∈ s.stored ∨ (a ≤ x ∧ x < a + n)

/-- An instruction that stores `n` bytes of `v` at `a` completes: its other effects are those of `u`, which has the
memory of `s`; then the sequence goes on after `len` bytes. -/
def CompletesStoring (o : Result) (s u : State) (len a n : Nat) (v : Word) : Prop :=
  ∃ t, o = .next t ∧ { u with mem := t.mem, stored := t.stored }.Advanced t len ∧ s.Stored t a n v

/-! ### What the core can reach (20 R135, R136, R138, R146) -/

/-- Data memory that exists on the board, apart from the boot ROM: SDRAM, the asynchronous banks, the two L1 data
banks, the scratchpad. -/
def Platform.DataRam (p : Platform) (x : Nat) : Prop :=
  (x < 0x08000000 ∧ x < p.sdramSize) ∨
  (0x20000000 ≤ x ∧ x < 0x20100000 ∧ p.asyncBank0 = true) ∨
  (0x20100000 ≤ x ∧ x < 0x20200000 ∧ p.asyncBank1 = true) ∨
  (0x20200000 ≤ x ∧ x < 0x20300000 ∧ p.asyncBank2 = true) ∨
  (0x20300000 ≤ x ∧ x < 0x20400000 ∧ p.asyncBank3 = true) ∨
  (0xFF800000 ≤ x ∧ x < 0xFF808000) ∨ (0xFF900000 ≤ x ∧ x < 0xFF908000) ∨ (0xFFB00000 ≤ x ∧ x < 0xFFB01000)

/-- What a load can reach. -/
def Platform.DataReadable (p : Platform) (x : Nat) : Prop := p.DataRam x ∨ (0xEF000000 ≤ x ∧ x < 0xEF000400)

/-- SDRAM or asynchronous memory that exists on the board (42 R349). -/
def Platform.External (p : Platform) (x : Nat) : Prop := p.DataRam x ∧ x < 0x20400000

/-- A store of `n` bytes at `a` is possible (20 R143, R146): aligned, reachable, and no byte of it fetched as code. -/
def State.CanStore (s : State) (a : Word) (n : Nat) : Prop :=
  a.toNat % n = 0 ∧ ∀ k, k < n → s.platform.DataRam (a.toNat + k) ∧ (a.toNat + k) ∉ s.fetched

/-- Memory an instruction can be fetched from (20 R135, R136 (b), R138): SDRAM, the asynchronous banks, the boot ROM, L1
instruction memory. -/
def Platform.Fetchable (p : Platform) (x : Nat) : Prop :=
  (p.DataRam x ∧ x < 0x20400000) ∨ (0xEF000000 ≤ x ∧ x < 0xEF000400) ∨ (0xFFA00000 ≤ x ∧ x < 0xFFA14000)

/-- The bytes at the address are the code of an instruction that can be fetched (30 R172, 20 R143). -/
def State.HoldsCode (s : State) (a : Nat) (bs : List Byte) : Prop :=
  ∀ k, (h : k < bs.length) → s.byteAt (a + k) = some bs[k] ∧ s.platform.Fetchable (a + k) ∧ (a + k) ∉ s.stored

/-- The address of each register of 10 R74 and R75. -/
def mmrAddress : CoreMmr → Nat
  | .evt k => 0xFFE02000 + 4 * k.val
  | .imask => 0xFFE02104
  | .ipend => 0xFFE02108
  | .ilat => 0xFFE0210C
  | .iprio => 0xFFE02110
  | .tcntl => 0xFFE03000
  | .tperiod => 0xFFE03004
  | .tscale => 0xFFE03008
  | .tcount => 0xFFE0300C

/-- What a load of the register gives (10 R74, R75), where it is no free value. -/
def State.mmrValue (s : State) : CoreMmr → Word
  | .evt k => s.evt[k]
  | .imask => s.imask
  | .ipend => s.ipend
  | .ilat => s.ilat
  | .iprio => s.iprio
  | .tcntl => s.timer.tcntl
  | .tperiod => s.timer.tperiod
  | .tscale => s.timer.tscale
  | .tcount => s.timer.tcount

/-- A load of `n` bytes of memory at `a` gives `v` (20 R146): aligned, reachable, and holding the bytes of `v`, whose
upper bytes are 0. -/
def State.LoadsRam (s : State) (a : Word) (n : Nat) (v : Word) : Prop :=
  a.toNat % n = 0 ∧ (∀ k, k < n → s.platform.DataReadable (a.toNat + k)) ∧ s.Holds a.toNat n v ∧ v.toNat < 2 ^ (8 * n)

/-- A load of the memory-mapped register at `a` gives `v` (20 R137): out of User mode, all 32 bits, and no free value. -/
def State.LoadsMmr (s : State) (a : Word) (n : Nat) (v : Word) : Prop :=
  s.mode ≠ .user ∧ n = 4 ∧
    ∃ m, a.toNat = mmrAddress m ∧ v = s.mmrValue m ∧ ¬ (m = .tcount ∧ s.timer.runs = true)

/-- A load of `n` bytes at `a` gives `v` (20 R146). -/
def State.Loads (s : State) (a : Word) (n : Nat) (v : Word) : Prop := s.LoadsRam a n v ∨ s.LoadsMmr a n v

/-- The register takes the value (10 R74, R75, R83; 60 R431): reserved bits 0, and IPEND takes none. -/
def mmrAccepts (m : CoreMmr) (v : Word) : Prop :=
  match m with
  | .imask => v.toNat < 2 ^ 16
  | .tcntl => v.toNat < 2 ^ 4
  | .evt _ | .ilat | .iprio | .tperiod | .tscale | .tcount => True
  | .ipend => False

/-- A store of `v` takes a free value: `v` sets a bit beside the `k` bits that the register has (log entry 38). -/
def freeStores (k : Nat) (v : Word) : Nat := if v.toNat < 2 ^ k then 0 else 1

/-- What a register with `k` bits keeps of a store of `v`, its other bits being free where `v` sets one of them (log entry
38). -/
def State.keptOf (s : State) (k : Nat) (v : Word) : Word :=
  if v.toNat < 2 ^ k then v
  else BitVec.ofNat 32 ((Config.freeWord s.draws).toNat / 2 ^ k * 2 ^ k + v.toNat % 2 ^ k)

/-- The state with a memory-mapped register written (10 R74, R75; 60 R431, R461): IMASK keeps bits 4:0 at 1, ILAT loses
the bits 15:5 written as 1 whose IMASK bit is 0, TPERIOD fills TCOUNT, IPRIO has 4 bits (log entry 38). -/
def State.withMmr (s : State) (m : CoreMmr) (v : Word) : State :=
  match m with
  | .evt k => { s with evt := s.evt.set k v }
  | .imask => { s with imask := (v &&& 0xFFE0#32) ||| 0x1F#32 }
  | .ipend => s
  | .ilat => { s with ilat := s.ilat &&& ~~~(v &&& ~~~s.imask &&& 0xFFE0#32) }
  | .iprio => { s with iprio := s.keptOf 4 v, draws := s.draws + freeStores 4 v }
  | .tcntl => { s with timer := { s.timer with tcntl := v } }
  | .tperiod => { s with timer := { s.timer with tperiod := v, tcount := v } }
  | .tscale => { s with timer := { s.timer with tscale := v } }
  | .tcount => { s with timer := { s.timer with tcount := v } }

/-- A store of the word `v` at `a`, the other effects being those of `u`: to memory, or out of User mode to a
memory-mapped register (20 R137, R146). What ILAT does with bits outside 15:5, and IPRIO with a value too wide for it, is
the model's reading (log entries 17 and 38). -/
def StoresWord (o : Result) (s u : State) (len : Nat) (a v : Word) : Prop :=
  (s.CanStore a 4 → CompletesStoring o s u len a.toNat 4 v) ∧
  ∀ m, s.mode ≠ .user → a.toNat = mmrAddress m → mmrAccepts m v → Completes o s (u.withMmr m v) len

/-- A store of the word `v` at `a` is done, to memory or out of User mode to a memory-mapped register (20 R137, R146). -/
def State.TakesWord (s : State) (a v : Word) : Prop :=
  s.CanStore a 4 ∨ (s.mode ≠ .user ∧ ∃ m, a.toNat = mmrAddress m ∧ mmrAccepts m v)

/-! ### Exceptions and events -/

/-- No event of number 0 to 3 is in service: an exception can be taken (60 R446). -/
def State.CanTrap (s : State) : Prop := s.ipend &&& 0xF#32 = 0#32

/-- The state with a data access at `a` recorded, as an exception with the code 0x23, 0x24, 0x26 or 0x27 does before its
entry: DCPLB_FAULT_ADDR has the address and DCPLB_STATUS a free value (60 R445; log entry 39). -/
def State.dataFault (s : State) (a : Word) : State :=
  { s with
    sys := { s.sys with dcplbStatus := Config.freeWord s.draws, dcplbFaultAddr := a }
    draws := s.draws + 1 }

/-- The state with a fetch at pc recorded, as an exception with the code 0x2A to 0x2D does before its entry:
ICPLB_FAULT_ADDR has the address and ICPLB_STATUS a free value (60 R445; log entry 39). -/
def State.fetchFault (s : State) : State :=
  { s with
    sys := { s.sys with icplbStatus := Config.freeWord s.draws, icplbFaultAddr := s.pc }
    draws := s.draws + 1 }

/-- The state after an exception with the code `c` and the return address `ra` is taken in `s` (60 R440, R446): the
fields it names change and nothing else does. -/
def State.trapped (s : State) (c : BitVec 6) (ra : Word) : State :=
  { s with
    retx := ra
    seqstat := (s.seqstat &&& 0xFFFFFFC0#32) ||| c.setWidth 32
    ilat := s.ilat &&& 0xFFFFFFF7#32
    ipend := s.ipend ||| 8#32
    pc := s.evt[3]
    idle := false }

/-- The codes of the causes that a data access raises and that leave a record (60 R445). -/
def dataFaultCodes : List (BitVec 6) := [0x23, 0x24, 0x26, 0x27]

/-- The codes of their equivalents of the fetch (60 R445; log entry 39). -/
def fetchFaultCodes : List (BitVec 6) := [0x2A, 0x2B, 0x2C, 0x2D]

/-- `t` is the state after an exception is taken in `s` (60 R440, R445): event entry, after the record its code leaves. -/
def State.TrapsTo (s t : State) : Prop :=
  ∃ c ra,
    (c ∈ dataFaultCodes ∧ ∃ a, t = (s.dataFault a).trapped c ra) ∨
    (c ∈ fetchFaultCodes ∧ t = s.fetchFault.trapped c ra) ∨
    (c ∉ dataFaultCodes ∧ c ∉ fetchFaultCodes ∧ t = s.trapped c ra)

/-- The state after event `k`, an interrupt or the NMI, is entered from `s` (60 R440). -/
def State.interrupted (s : State) (k : Fin 16) : State :=
  { s with
    retn := if k = 2 then s.pc else s.retn
    reti := if 5 ≤ k.val then s.pc else s.reti
    ilat := s.ilat &&& ~~~(1#32 <<< k.val)
    ipend := s.ipend ||| (1#32 <<< k.val) ||| (if 5 ≤ k.val then 0x10#32 else 0#32)
    pc := s.evt[k]
    idle := false }

/-- Event `k` is the one of highest priority in service (60 R441). -/
def State.InService (s : State) (k : Nat) : Prop :=
  k < 16 ∧ k ≠ 4 ∧ s.ipend.getLsbD k = true ∧ ∀ j, j < k → j ≠ 4 → s.ipend.getLsbD j = false

/-- Event `k` can be accepted (60 R441): latched, above everything in service, and either the NMI or an interrupt that is
enabled while interrupts are. -/
def State.CanAccept (s : State) (k : Fin 16) : Prop :=
  s.ilat.getLsbD k.val = true ∧ (∀ j, j ≤ k.val → j ≠ 4 → s.ipend.getLsbD j = false) ∧
    (k.val = 2 ∨ (5 ≤ k.val ∧ s.imask.getLsbD k.val = true ∧ s.ipend.getLsbD 4 = false))

/-- Event `k` is accepted: the one of highest priority that can be. -/
def State.MustAccept (s : State) (k : Fin 16) : Prop := s.CanAccept k ∧ ∀ j, j < k → ¬ s.CanAccept j

/-- The conditions of 43 R400 for a move of an index register by `z` inside its circular buffer. -/
def State.InBuffer (s : State) (i : Quad) (z : Int) : Prop :=
  (s.b.get i).toNat ≤ (s.i.get i).toNat ∧ (s.i.get i).toNat < (s.b.get i).toNat + (s.l.get i).toNat ∧
    (s.b.get i).toNat + (s.l.get i).toNat < 2 ^ 32 ∧ -((s.l.get i).toNat : Int) ≤ z ∧ z ≤ (s.l.get i).toNat

/-- The index register that moves by `z` becomes `w` (43 R400): plainly with a length of 0, else around its buffer. -/
def State.IndexMoves (s : State) (i : Quad) (z : Int) (w : Word) : Prop :=
  (s.l.get i = 0#32 ∧ w = BitVec.ofInt 32 ((s.i.get i).toNat + z)) ∨
  (s.l.get i ≠ 0#32 ∧ s.InBuffer i z ∧
    w = BitVec.ofInt 32 ((s.b.get i).toNat + ((s.i.get i).toNat - (s.b.get i).toNat + z) % (s.l.get i).toNat))

/-- A move of an index register that 43 R400 refuses. -/
def State.IndexCorner (s : State) (i : Quad) (z : Int) : Prop := s.l.get i ≠ 0#32 ∧ ¬ s.InBuffer i z

/-- The instruction at pc ends neither loop. -/
def State.NotAtLoopEnd (s : State) : Prop := ¬ s.Ends s.loop0 ∧ ¬ s.Ends s.loop1

/-- The state that only Supervisor mode can change (60 R424, R426): the registers of group 7 but for USP, which is the
stack pointer of User mode, the memory-mapped registers, and the supervisor stack pointer. -/
def State.SameSupervisor (s t : State) : Prop :=
  t.spSup = s.spSup ∧ t.seqstat = s.seqstat ∧ t.syscfg = s.syscfg ∧ t.reti = s.reti ∧ t.retx = s.retx ∧
  t.retn = s.retn ∧ t.rete = s.rete ∧ t.emudat = s.emudat ∧ t.evt = s.evt ∧ t.imask = s.imask ∧ t.ipend = s.ipend ∧
  t.ilat = s.ilat ∧ t.iprio = s.iprio ∧ t.timer = s.timer ∧ t.sys = s.sys ∧ t.idle = s.idle

/-! ### Registers as the rules describe them -/

/-- The mode may name the register: a register of group 7 needs Supervisor mode (41 R261, 43 R382). -/
def State.mayName (s : State) (r : Reg) : Bool := !(regIsSupervisor r && s.mode == .user)

/-- The value of a register as a source (41 R262, R263). CYCLES and CYCLES2 are free values; EMUDAT has no value. -/
def State.valueOf (s : State) : Reg → Word
  | .gen g => s.getGen g
  | .a0x => (s.a0.extractLsb' 32 8).signExtend 32
  | .a0w => s.a0.setWidth 32
  | .a1x => (s.a1.extractLsb' 32 8).signExtend 32
  | .a1w => s.a1.setWidth 32
  | .astat => s.astat.toWord
  | .rets => s.rets
  | .lc .k0 => s.loop0.lc
  | .lc .k1 => s.loop1.lc
  | .lt .k0 => s.loop0.lt
  | .lt .k1 => s.loop1.lt
  | .lb .k0 => s.loop0.lb
  | .lb .k1 => s.loop1.lb
  | .cycles | .cycles2 => Config.freeWord s.draws
  | .usp => s.usp
  | .seqstat => s.seqstat
  | .syscfg => s.syscfg
  | .reti => s.reti
  | .retx => s.retx
  | .retn => s.retn
  | .rete => s.rete
  | .emudat => 0#32

/-- The state after a register was read: a read of CYCLES or CYCLES2 uses up one free value. -/
def State.afterRead (s : State) (r : Reg) : State :=
  if r = .cycles ∨ r = .cycles2 then { s with draws := s.draws + 1 } else s

/-- The value may be written to the register (41 R263, 42 R332 (d)). -/
def State.Accepts (s : State) (r : Reg) (v : Word) : Prop :=
  match r with
  | .astat => v &&& ~~~astatMask = 0#32 ∧ v.getLsbD 2 = v.getLsbD 12 ∧ v.getLsbD 3 = v.getLsbD 24
  | .lc k => ¬ s.Ends (s.getLoop k)
  | .lt k | .lb k => v.toNat % 2 = 0 ∧ ¬ s.Ends (s.getLoop k)
  | .syscfg => v = 0x30#32 ∨ v = 0x32#32
  | .seqstat | .emudat => False
  | .gen _ | .a0x | .a0w | .a1x | .a1w | .rets | .cycles | .cycles2 | .usp | .reti | .retx | .retn | .rete => True

/-- The state with a register written (41 R262, R263): a write to CYCLES or CYCLES2 has no effect. -/
def State.withReg (s : State) (r : Reg) (v : Word) : State :=
  match r with
  | .gen g => s.setGen g v
  | .a0x => { s with a0 := v.setWidth 8 ++ s.a0.setWidth 32 }
  | .a0w => { s with a0 := s.a0.extractLsb' 32 8 ++ v }
  | .a1x => { s with a1 := v.setWidth 8 ++ s.a1.setWidth 32 }
  | .a1w => { s with a1 := s.a1.extractLsb' 32 8 ++ v }
  | .astat => { s with astat := .ofFields v }
  | .rets => { s with rets := v }
  | .lc .k0 => { s with loop0 := { s.loop0 with lc := v } }
  | .lc .k1 => { s with loop1 := { s.loop1 with lc := v } }
  | .lt .k0 => { s with loop0 := { s.loop0 with lt := v } }
  | .lt .k1 => { s with loop1 := { s.loop1 with lt := v } }
  | .lb .k0 => { s with loop0 := { s.loop0 with lb := v } }
  | .lb .k1 => { s with loop1 := { s.loop1 with lb := v } }
  | .usp => { s with usp := v }
  | .syscfg => { s with syscfg := v }
  | .reti => { s with reti := v }
  | .retx => { s with retx := v }
  | .retn => { s with retn := v }
  | .rete => { s with rete := v }
  | .cycles | .cycles2 | .seqstat | .emudat => s

/-- Several data and pointer registers written. -/
def State.withAll (s : State) (l : List (DPReg × Word)) : State := l.foldl (fun t x => t.setDP x.1 x.2) s

/-! ### Results and flags as the rules describe them (41 R225, 10 R64) -/

/-- The exact value does not fit into a signed word: what V reports. -/
def overflows (z : Int) : Bool := decide (z < -2 ^ 31 ∨ 2 ^ 31 ≤ z)

/-- `v` in Rd, AZ and AN of `v`, AC0, and V with its sticky bit VS; every other flag as it was. -/
def State.withResult (s : State) (rd : DReg) (v : Word) (ac0 ovf : Bool) : State :=
  { s.setD rd v with
    astat := { s.astat with
      az := decide (v = 0#32), an := decide (v.toInt < 0), ac0 := ac0, v := ovf, vs := s.astat.vs || ovf } }

/-- `v` in Rd, AZ and AN of `v`, V cleared; AC0, VS and every other flag as they were. -/
def State.withShift (s : State) (rd : DReg) (v : Word) : State :=
  { s.setD rd v with astat := { s.astat with az := decide (v = 0#32), an := decide (v.toInt < 0), v := false } }

/-- The flags after a compare: CC, AZ, AN, AC0; every other flag as it was. -/
def State.compared (s : State) (cc az an ac0 : Bool) : State :=
  { s with astat := { s.astat with cc := cc, az := az, an := an, ac0 := ac0 } }

/-- CC alone. -/
def State.withCc (s : State) (cc : Bool) : State := { s with astat := { s.astat with cc := cc } }

/-! ### Where an instruction accesses memory -/

/-- The first data access of an instruction (43): its address and its width in bytes. Forms that are refused, and
stack accesses of a Supervisor-only register in User mode, stop before they access memory and have none. TESTSET, whose
one byte must lie in external memory, is not listed. -/
def dataAccess (s : State) : Instr → Option (Word × Nat)
  | .ldDInc _ pp | .ldDDec _ pp | .ldDInd _ pp | .stDInc _ pp | .stDDec _ pp | .stDInd _ pp => some (s.getP pp, 4)
  | .ldPInc pr pp | .ldPDec pr pp => if pr = pp then none else some (s.getP pp, 4)
  | .ldPInd _ pp | .stPInc _ pp | .stPDec _ pp | .stPInd _ pp => some (s.getP pp, 4)
  | .ldHalfZInc _ pp | .ldHalfXInc _ pp | .ldHalfZDec _ pp | .ldHalfXDec _ pp | .ldHalfZInd _ pp | .ldHalfXInd _ pp
  | .stHalfInc _ pp | .stHalfDec _ pp | .stHalfInd _ pp => some (s.getP pp, 2)
  | .ldByteZInc _ pp | .ldByteXInc _ pp | .ldByteZDec _ pp | .ldByteXDec _ pp | .ldByteZInd _ pp | .ldByteXInd _ pp
  | .stByteInc _ pp | .stByteDec _ pp | .stByteInd _ pp => some (s.getP pp, 1)
  | .ldPmod _ pp pi | .stPmod _ pp pi => if pi = pp then none else some (s.getP pp, 4)
  | .ldPmodHalfZ _ pp pi | .ldPmodHalfX _ pp pi => if pi = pp then none else some (s.getP pp, 2)
  | .ldPmodLo _ pp _ | .ldPmodHi _ pp _ | .stPmodLo _ pp _ | .stPmodHi _ pp _ => some (s.getP pp, 2)
  | .ldIInc _ i | .ldIDec _ i | .ldIInd _ i | .stIInc _ i | .stIDec _ i | .stIInd _ i | .ldIMod _ i _
  | .stIMod _ i _ => some (s.i.get i, 4)
  | .ldILoInc _ i | .ldIHiInc _ i | .ldILoDec _ i | .ldIHiDec _ i | .ldILoInd _ i | .ldIHiInd _ i | .stILoInc _ i
  | .stIHiInc _ i | .stILoDec _ i | .stIHiDec _ i | .stILoInd _ i | .stIHiInd _ i => some (s.i.get i, 2)
  | .ldDOff _ pp o | .ldPOff _ pp o | .stDOff _ pp o | .stPOff _ pp o => some (shortAddress s pp o .word, 4)
  | .ldHalfZOff _ pp o | .ldHalfXOff _ pp o | .stHalfOff _ pp o => some (shortAddress s pp o .half, 2)
  | .ldDFp _ o | .ldPFp _ o | .stDFp _ o | .stPFp _ o => some (frameAddress s o, 4)
  | .ldDIdx _ pp o | .ldPIdx _ pp o | .stDIdx _ pp o | .stPIdx _ pp o => some (longAddress s pp o .word, 4)
  | .ldHalfZIdx _ pp o | .ldHalfXIdx _ pp o | .stHalfIdx _ pp o => some (longAddress s pp o .half, 2)
  | .ldByteZIdx _ pp o | .ldByteXIdx _ pp o | .stByteIdx _ pp o => some (longAddress s pp o .byte, 1)
  | .popReg r => if r.poppable ∧ r ≠ .emudat ∧ s.mayName r then some (s.sp, 4) else none
  | .pushReg r => if r.pushable ∧ r ≠ .emudat ∧ s.mayName r then some (s.sp - 4#32, 4) else none
  | .popMultDP _ pr | .popMultP pr => if pr.numbered then some (s.sp, 4) else none
  | .popMultD _ => some (s.sp, 4)
  | .pushMultDP _ pr | .pushMultP pr => if pr.numbered then some (s.sp - 4#32, 4) else none
  | .pushMultD _ | .link _ => some (s.sp - 4#32, 4)
  | .unlink => some (s.getP .fp, 4)
  | _ => none

/-- What an instruction stores at its first data access, in the low bytes of a word; none if it does not store there. -/
def firstStored (s : State) : Instr → Option Word
  | .stDInc rr _ | .stDDec rr _ | .stDInd rr _ | .stHalfInc rr _ | .stHalfDec rr _ | .stHalfInd rr _ | .stByteInc rr _
  | .stByteDec rr _ | .stByteInd rr _ | .stPmod rr _ _ | .stPmodLo rr _ _ | .stIInc rr _ | .stIDec rr _ | .stIInd rr _
  | .stIMod rr _ _ | .stILoInc rr _ | .stILoDec rr _ | .stILoInd rr _ | .stDOff rr _ _ | .stHalfOff rr _ _
  | .stDFp rr _ | .stDIdx rr _ _ | .stHalfIdx rr _ _ | .stByteIdx rr _ _ | .pushMultDP rr _ | .pushMultD rr =>
    some (s.getD rr)
  | .stPmodHi rr _ _ | .stIHiInc rr _ | .stIHiDec rr _ | .stIHiInd rr _ => some (s.getD rr >>> 16)
  | .stPInc pr _ | .stPDec pr _ | .stPInd pr _ | .stPOff pr _ _ | .stPFp pr _ | .stPIdx pr _ _ | .pushMultP pr =>
    some (s.getP pr)
  | .pushReg r => some (s.valueOf r)
  | .link _ => some s.rets
  | _ => none

/-- The instructions of 42 R332 (c): control transfers, event instructions, IDLE, LSETUP. -/
def breaksLoop : Instr → Bool
  | .jumpShort _ | .jumpLong _ | .jumpReg _ | .jumpPcReg _ | .jumpIfCc _ _ | .jumpIfNotCc _ _ | .callLong _
  | .callReg _ | .callPcReg _ | .rts | .rti | .rtx | .rtn | .rte | .raise _ | .excpt _ | .cli _ | .sti _ | .idle
  | .lsetup _ _ _ | .lsetupP _ _ _ _ | .lsetupPHalf _ _ _ _ => true
  | _ => false

/-- The instructions that do not simply go on to the next address: control transfers, event returns, EXCPT (42 R302 to R313,
R335 to R338, R341). -/
def leavesSequence : Instr → Bool
  | .jumpShort _ | .jumpLong _ | .jumpReg _ | .jumpPcReg _ | .jumpIfCc _ _ | .jumpIfNotCc _ _ | .callLong _
  | .callReg _ | .callPcReg _ | .rts | .rti | .rtx | .rtn | .rte | .excpt _ => true
  | _ => false

/-- Instructions that have no stop and no exception of their own: NOP, the barriers, cache control, CC, comparisons,
conditional moves, arithmetic, logic, shifts, bits, pointer arithmetic, immediates. -/
def onlyGoesOn : Instr → Bool
  | .nop | .csync | .ssync | .ccToD _ | .dToCc _ | .notCc | .prefetch _ _ | .flushinv _ _ | .flush _ _ | .iflush _ _
  | .ccSetBit _ | .ccOrBit _ | .ccAndBit _ | .ccXorBit _ | .bitSetCc _ | .bitOrCc _ | .bitAndCc _ | .bitXorCc _
  | .movIfNotCc _ _ | .movIfCc _ _ | .cmpEqD _ _ | .cmpEqDImm _ _ | .cmpEqP _ _ | .cmpEqPImm _ _ | .cmpLtD _ _
  | .cmpLtDImm _ _ | .cmpLtP _ _ | .cmpLtPImm _ _ | .cmpLeD _ _ | .cmpLeDImm _ _ | .cmpLeP _ _ | .cmpLePImm _ _
  | .cmpLtuD _ _ | .cmpLtuDImm _ _ | .cmpLtuP _ _ | .cmpLtuPImm _ _ | .cmpLeuD _ _ | .cmpLeuDImm _ _ | .cmpLeuP _ _
  | .cmpLeuPImm _ _ | .cmpEqAcc | .cmpLtAcc | .cmpLeAcc | .asrD _ _ | .lsrD _ _ | .lslD _ _ | .mulD _ _ | .sextHalf _ _
  | .zextHalf _ _ | .sextByte _ _ | .zextByte _ _ | .negD _ _ | .notD _ _ | .subP _ _ | .shl2P _ _ | .shr2P _ _
  | .shr1P _ _ | .sumShl1P _ _ | .sumShl2P _ _ | .bittstNot _ _ | .bittst _ _ | .bitset _ _ | .bittgl _ _ | .bitclr _ _
  | .asrImm _ _ | .lsrImm _ _ | .lslImm _ _ | .addD _ _ _ | .subD _ _ _ | .andD _ _ _ | .orD _ _ _ | .xorD _ _ _
  | .addP _ _ _ | .addPShl1 _ _ _ | .addPShl2 _ _ _ | .movImmD _ _ | .addImmD _ _ | .movImmP _ _ | .addImmP _ _
  | .ldiLo _ _ | .ldiHi _ _ | .ldiZ _ _ | .ldiX _ _ => true
  | _ => false

/-- The Supervisor-only instructions of 42 R350: by what they are, or by the register they name. -/
def isSupervisorOnly : Instr → Bool
  | .rti | .rtx | .rtn | .rte | .raise _ | .cli _ | .sti _ | .idle => true
  | .regMove dst src => dst.movable src && (regIsSupervisor dst || regIsSupervisor src)
  | .popReg r | .pushReg r => regIsSupervisor r && r != .emudat
  | _ => false

end Sys2Proof.Machine
end

