-- ==== Sys2Proof/Certificates/Slice0/Obligations.lean ====
section
/-! DEFINITION. The statements for the provers. `Completes (exec i s) s u len` says that the instruction answers a next
state, which is `s` with the changes that `u` shows and nothing else changed, and that the sequence then goes on after
`len` bytes by the loop rule (Safety.lean). Each statement is the whole frame of its instructions. -/

section

open Sys2Proof Sys2Proof.Machine

/-! ### Reset, the registers, the mode -/

/-- The values that 10 R90 gives at reset, and memory that holds nothing. -/
def Obligations.ResetValues : Prop :=
  State.reset.pc = 0xFFA00000#32 ∧ State.reset.loop0.lc = 0#32 ∧ State.reset.loop1.lc = 0#32 ∧
  State.reset.seqstat = 0#32 ∧ State.reset.syscfg = 0x30#32 ∧ State.reset.imask = 0x1F#32 ∧
  State.reset.ipend = 0x12#32 ∧ State.reset.ilat = 0#32 ∧ State.reset.timer.tcntl = 0#32 ∧
  State.reset.sys.sicImask = 0#32 ∧ State.reset.sys.sicIar0 = 0x10000000#32 ∧
  State.reset.sys.sicIar1 = 0x33322221#32 ∧ State.reset.sys.sicIar2 = 0x66655444#32 ∧
  State.reset.sys.sicIwr = 0xFFFFFFFF#32 ∧ State.reset.sys.swrst = 0#16 ∧
  State.reset.sys.timer0Config = 0#16 ∧ State.reset.sys.timer1Config = 0#16 ∧ State.reset.sys.timer2Config = 0#16 ∧
  State.reset.mode = .supervisor ∧ State.reset.InService 1 ∧ State.reset.idle = false ∧
  ∀ a, State.reset.byteAt a = none

/-- The mode is the function of IPEND that 60 R421 gives. -/
def Obligations.ModeFollowsIpend : Prop :=
  ∀ s : State,
    (s.mode = .emulation ↔ s.ipend.getLsbD 0 = true) ∧
    (s.mode = .supervisor ↔
      s.ipend.getLsbD 0 = false ∧ ∃ k, 1 ≤ k ∧ k ≤ 15 ∧ k ≠ 4 ∧ s.ipend.getLsbD k = true) ∧
    (s.mode = .user ↔ ∀ k, k ≤ 15 → k ≠ 4 → s.ipend.getLsbD k = false)

/-- Every register of groups 0 to 3 reads back what was written and leaves the others; SP names one of two registers,
by the mode (10 R60 to R62, R69). -/
def Obligations.RegistersReadBack : Prop :=
  ∀ (s : State) (g h : GenReg) (v : Word),
    (s.setGen g v).getGen h = (if h = g then v else s.getGen h) ∧
    (s.mode = .user → s.getP .sp = s.usp ∧ s.setP .sp v = { s with usp := v }) ∧
    (s.mode ≠ .user → s.getP .sp = s.spSup ∧ s.setP .sp v = { s with spSup := v })

/-- ASTAT as a word has its fields at the places of 10 R64 and every other bit 0, and a word with these properties
gives the fields back (41 R263). -/
def Obligations.AstatLayout : Prop :=
  (∀ a : Astat, ∀ k, k < 32 → a.toWord.getLsbD k =
    ((decide (k = 0) && a.az) || (decide (k = 1) && a.an) || (decide (k = 2 ∨ k = 12) && a.ac0) ||
      (decide (k = 3 ∨ k = 24) && a.v) || (decide (k = 5) && a.cc) || (decide (k = 6) && a.aq) ||
      (decide (k = 8) && a.rndMod) || (decide (k = 13) && a.ac1) || (decide (k = 16) && a.av0) ||
      (decide (k = 17) && a.av0s) || (decide (k = 18) && a.av1) || (decide (k = 19) && a.av1s) ||
      (decide (k = 25) && a.vs))) ∧
  (∀ a : Astat, Astat.ofFields a.toWord = a) ∧
  ∀ (a : Astat) (n m : AstatBit) (x : Bool),
    a.get n = a.toWord.getLsbD n.code.toNat ∧ (a.put n x).get m = (if m = n then x else a.get m) ∧
    (a.put n x).cc = a.cc ∧ (a.put n x).rndMod = a.rndMod

/-! ### Encoding -/

/-- Decoding the parcels of a well-formed instruction, with anything after them, gives the instruction back with every
operand, and leaves what is after it (30 R176 to R204). -/
def Obligations.DecodeEncode : Prop :=
  ∀ i : Instr, i.wf = true → ∀ rest : List Parcel, decodeParcels (encode i ++ rest) = (.instr i, rest)

/-- Words written out from the formats of 30. -/
def Obligations.DecodeOfWrittenWords : Prop :=
  decodeParcels [0x0000#16] = (.instr .nop, []) ∧
  decodeParcels [0x00A5#16] = (.instr (.excpt 5), []) ∧
  decodeParcels [0x0167#16] = (.instr (.pushReg .rets), []) ∧
  decodeParcels [0x05E3#16] = (.instr (.pushMultDP .r4 .p3), []) ∧
  decodeParcels [0x0C0A#16] = (.instr (.cmpEqDImm .r2 1), []) ∧
  decodeParcels [0x1BFE#16] = (.instr (.jumpIfCc false 0x3FE), []) ∧
  decodeParcels [0x3038#16] = (.instr (.regMove (.gen (.d .r7)) (.gen (.d .r0))), []) ∧
  decodeParcels [0x50BB#16] = (.instr (.addD .r2 .r3 .r7), []) ∧
  decodeParcels [0x9452#16] = (.instr (.ldHalfXInc .r2 .p2), []) ∧
  decodeParcels [0x9E65#16] = (.instr (.addIM .n1 .n1), []) ∧
  decodeParcels [0xBBE9#16] = (.instr (.stPFp .p1 0x1E), []) ∧
  decodeParcels [0xE0A2#16, 0x1005#16] = (.instr (.lsetupP .k0 2 .p1 5), []) ∧
  decodeParcels [0xE10D#16, 0x8000#16] = (.instr (.ldiLo (.p .p5) 0x8000), []) ∧
  decodeParcels [0xE3FF#16, 0xFFFE#16] = (.instr (.callLong 0xFFFFFE), []) ∧
  decodeParcels [0xE801#16, 0x0000#16] = (.instr .unlink, [])

/-- Multi-issue words, the words of the DSP formats and the 32-bit words 0xD000 to 0xD7FF, which no format has, are
refused by name (30 R171, R173, R205, R210). -/
def Obligations.RefusedEncodings : Prop :=
  ∀ (hw0 hw1 : Parcel) (rest : List Parcel),
    ((0xC800 ≤ hw0.toNat ∧ hw0.toNat < 0xD000) ∨ (0xD800 ≤ hw0.toNat ∧ hw0.toNat < 0xE000) →
      (decodeParcels (hw0 :: rest)).1 = .multiIssue) ∧
    ((0xC000 ≤ hw0.toNat ∧ hw0.toNat < 0xC800) ∨ (0xD000 ≤ hw0.toNat ∧ hw0.toNat < 0xD800) →
      (decodeParcels (hw0 :: hw1 :: rest)).1 = .notInSubset)

/-! ### The step -/

/-- What the environment does at a boundary (60 R442, R461, R480): nothing while `arrivals` is empty; else its head latches
the NMI, and the core timer's event while the timer runs, and nothing else changes. Beside it the routing of the SIC (60
R452), which no boundary uses, since no device requests (60 R442 (c), R480; log entry 6): a request that SIC_ISR shows and
SIC_IMASK passes sets the bit of ILAT that its field of SIC_IARn names and no other; with the SIC_IMASK of reset none is
passed. That a field of 9 to 15, on which R452 is silent, routes nowhere is the model's choice (log entry 7; DEDUCED). -/
def Obligations.BoundaryLatches : Prop :=
  (∀ s : State,
    (s.arrivals = [] → s.boundary = s) ∧
    ∀ e rest, s.arrivals = e :: rest →
      let fires := e.coreTimer && s.timer.tcntl.getLsbD 0 && s.timer.tcntl.getLsbD 1
      s.boundary =
        { s with
          arrivals := rest
          ilat := s.boundary.ilat
          timer := { s.timer with tcntl := if fires then s.timer.tcntl ||| 8#32 else s.timer.tcntl } } ∧
      ∀ k, k < 32 → s.boundary.ilat.getLsbD k =
        (s.ilat.getLsbD k || (decide (k = 2) && e.nmi) || (decide (k = 6) && fires))) ∧
  ∀ (y : SysRegs) (ilat requests : Word),
    let iar (p : Nat) := if p < 8 then y.sicIar0 else if p < 16 then y.sicIar1 else y.sicIar2
    let field (p : Nat) := (iar p).toNat / 16 ^ (p % 8) % 16
    (∀ k, k < 32 → (latchSources y ilat).getLsbD k =
      (ilat.getLsbD k || (List.range 24).any (fun p => y.sicIsr.getLsbD p && y.sicImask.getLsbD p &&
        decide (field p ≤ 8 ∧ k = 7 + field p)))) ∧
    latchSources { State.reset.sys with sicIsr := requests } ilat = ilat

/-- The event check (60 R441) and event entry (60 R440) at a boundary: the event that must be accepted is entered, with
the address of the next instruction as its return address. In the Idle state the core is stuck while none can be accepted
(42 R346, 00 R21); that the machine's step then answers a next state, which is the boundary's, is the model's choice (log
entry 22). -/
def Obligations.EventEntry : Prop :=
  ∀ s t : State, t = s.boundary →
    (∀ k, t.MustAccept k → step s = .next (t.interrupted k)) ∧
    ((∀ k, ¬ t.CanAccept k) → t.idle = true → Agent.core.move t = .stuck ∧ step s = .next t)

/-- A step runs the instruction that the bytes at pc decode to; it adds only the note of the addresses fetched
(42 R300, 30 R172). -/
def Obligations.StepRunsDecoded : Prop :=
  ∀ (s t : State) (i : Instr) (ps : List Parcel),
    t = s.boundary → (∀ k, ¬ t.CanAccept k) → t.idle = false → t.pc.toNat % 2 = 0 →
    decodeParcels ps = (.instr i, []) → t.HoldsCode t.pc.toNat (ps.flatMap parcelBytes) →
    step s = exec i { t with fetched := t.fetched.insertAll (span t.pc.toNat (2 * ps.length)) }

/-- Where a fetch stops (20 R133, R136 (b), R138; 10 R91): an odd pc raises InstrMisaligned with that address in RETX, and
leaves a record (60 R445; log entry 39), or is a double fault (60 R448); a region without fetch is refused; a byte without value faults. That the fetch of a byte the core
stored is refused is how the model decides the 'will be fetched' of 20 R143 (log entry 9), and that this comes before the
fault is its choice of order (log entry 24). -/
def Obligations.FetchStops : Prop :=
  ∀ s t : State, t = s.boundary → (∀ k, ¬ t.CanAccept k) → t.idle = false →
    (t.pc.toNat % 2 = 1 → t.CanTrap → step s = .next (t.fetchFault.trapped 0x2A#6 t.pc)) ∧
    (t.pc.toNat % 2 = 1 → ¬ t.CanTrap → step s = .fault .doubleFault) ∧
    (t.pc.toNat % 2 = 0 → ¬ t.platform.Fetchable t.pc.toNat →
      step s = .refused .unpopulatedAddress ∨ step s = .refused .fetchRegion) ∧
    (t.pc.toNat % 2 = 0 → (∀ k, k < 2 → t.platform.Fetchable (t.pc.toNat + k)) →
      ((∃ k, k < 2 ∧ (t.pc.toNat + k) ∈ t.stored) → step s = .refused .storeToCode) ∧
      ((∀ k, k < 2 → (t.pc.toNat + k) ∉ t.stored) → (∃ k, k < 2 ∧ t.byteAt (t.pc.toNat + k) = none) →
        step s = .fault .readOfUnwritten))

/-- Where pc plus the length passes 0xFFFFFFFF (10 R65): no sequential instruction goes on, so that a next state is the entry
of an exception; those without a stop or an exception of their own are refused by name, and so is a conditional jump that is
not taken, away from a loop's end. Calls and jumps write pc and are not among them (log entry 34). -/
def Obligations.EndOfAddressSpace : Prop :=
  ∀ (i : Instr) (s : State), ¬ s.Fits (2 * (encode i).length) →
    (leavesSequence i = false → ∀ t, exec i s = .next t → s.TrapsTo t) ∧
    (onlyGoesOn i = true → exec i s = .refused .pcWrap) ∧
    (s.NotAtLoopEnd → ∀ bp o, (i = .jumpIfCc bp o ∧ s.astat.cc = false) ∨ (i = .jumpIfNotCc bp o ∧ s.astat.cc = true) →
      exec i s = .refused .pcWrap)

/-! ### Arithmetic, logic, shifts on data registers -/

/-- Sums, differences and the negation, with their flags (41 R225, R230, R231, R239, R250): the result modulo 2^32; AC0
is the carry of a sum and the absence of a borrow of a difference; V says that the signed result does not fit. -/
def Obligations.SumsAndDifferences : Prop :=
  ∀ (rd rs0 rs1 : DReg) (imm : BitVec 7) (s : State), s.Fits 2 →
    let x := s.getD rs0
    let y := s.getD rs1
    let d := s.getD rd
    Completes (exec (.addD rd rs0 rs1) s) s
      (s.withResult rd (BitVec.ofNat 32 (x.toNat + y.toNat)) (decide (2 ^ 32 ≤ x.toNat + y.toNat))
        (overflows (x.toInt + y.toInt))) 2 ∧
    Completes (exec (.subD rd rs0 rs1) s) s
      (s.withResult rd (BitVec.ofInt 32 (x.toInt - y.toInt)) (decide (y.toNat ≤ x.toNat))
        (overflows (x.toInt - y.toInt))) 2 ∧
    Completes (exec (.addImmD rd imm) s) s
      (s.withResult rd (BitVec.ofInt 32 (d.toInt + imm.toInt))
        (decide (2 ^ 32 ≤ d.toNat + (BitVec.ofInt 32 imm.toInt).toNat)) (overflows (d.toInt + imm.toInt))) 2 ∧
    Completes (exec (.negD rd rs0) s) s
      (s.withResult rd (BitVec.ofInt 32 (-x.toInt)) (decide (x = 0#32)) (decide (x = 0x80000000#32))) 2

/-- The bitwise operations, the extensions and the bit operations, with the flags of a logical result: AC0 and V are
cleared, VS keeps (41 R225, R232 to R234, R246 to R249, R251, R257 to R259). -/
def Obligations.LogicalResults : Prop :=
  ∀ (rd rs0 rs1 : DReg) (n : BitVec 5) (s : State), s.Fits 2 →
    let x := s.getD rs0
    let y := s.getD rs1
    let d := s.getD rd
    let one := BitVec.ofNat 32 (2 ^ n.toNat)
    Completes (exec (.andD rd rs0 rs1) s) s (s.withResult rd (x &&& y) false false) 2 ∧
    Completes (exec (.orD rd rs0 rs1) s) s (s.withResult rd (x ||| y) false false) 2 ∧
    Completes (exec (.xorD rd rs0 rs1) s) s (s.withResult rd (x ^^^ y) false false) 2 ∧
    Completes (exec (.notD rd rs0) s) s (s.withResult rd (~~~x) false false) 2 ∧
    Completes (exec (.sextHalf rd rs0) s) s
      (s.withResult rd (BitVec.ofInt 32 (x.setWidth 16).toInt) false false) 2 ∧
    Completes (exec (.zextHalf rd rs0) s) s (s.withResult rd (BitVec.ofNat 32 (x.toNat % 2 ^ 16)) false false) 2 ∧
    Completes (exec (.sextByte rd rs0) s) s
      (s.withResult rd (BitVec.ofInt 32 (x.setWidth 8).toInt) false false) 2 ∧
    Completes (exec (.zextByte rd rs0) s) s (s.withResult rd (BitVec.ofNat 32 (x.toNat % 2 ^ 8)) false false) 2 ∧
    Completes (exec (.bitset rd n) s) s (s.withResult rd (d ||| one) false false) 2 ∧
    Completes (exec (.bitclr rd n) s) s (s.withResult rd (d &&& ~~~one) false false) 2 ∧
    Completes (exec (.bittgl rd n) s) s (s.withResult rd (d ^^^ one) false false) 2

/-- Shifts by a register or by an immediate (41 R242 to R244, R252 to R254): a shift right divides, rounding down, the
signed or the unsigned value; a shift left multiplies modulo 2^32; by any amount, also beyond 31. AZ and AN follow, V is
cleared, AC0 and VS keep. -/
def Obligations.Shifts : Prop :=
  ∀ (rd rs : DReg) (n : BitVec 5) (s : State), s.Fits 2 →
    let x := s.getD rd
    let m := (s.getD rs).toNat
    Completes (exec (.asrD rd rs) s) s (s.withShift rd (BitVec.ofInt 32 (x.toInt / 2 ^ m))) 2 ∧
    Completes (exec (.lsrD rd rs) s) s (s.withShift rd (BitVec.ofNat 32 (x.toNat / 2 ^ m))) 2 ∧
    Completes (exec (.lslD rd rs) s) s (s.withShift rd (BitVec.ofNat 32 (x.toNat * 2 ^ m))) 2 ∧
    Completes (exec (.asrImm rd n) s) s (s.withShift rd (BitVec.ofInt 32 (x.toInt / 2 ^ n.toNat))) 2 ∧
    Completes (exec (.lsrImm rd n) s) s (s.withShift rd (BitVec.ofNat 32 (x.toNat / 2 ^ n.toNat))) 2 ∧
    Completes (exec (.lslImm rd n) s) s (s.withShift rd (BitVec.ofNat 32 (x.toNat * 2 ^ n.toNat))) 2

/-- The product, the immediate, and CC as a number: one register, no flag (41 R238, R245, R283). -/
def Obligations.ResultsWithoutFlags : Prop :=
  ∀ (rd rs : DReg) (imm : BitVec 7) (s : State), s.Fits 2 →
    Completes (exec (.mulD rd rs) s) s
      (s.setD rd (BitVec.ofInt 32 ((s.getD rd).toInt * (s.getD rs).toInt))) 2 ∧
    Completes (exec (.movImmD rd imm) s) s (s.setD rd (BitVec.ofInt 32 imm.toInt)) 2 ∧
    Completes (exec (.ccToD rd) s) s (s.setD rd (if s.astat.cc = true then 1#32 else 0#32)) 2

/-! ### CC and the flags -/

/-- The bit tests and the other instructions that write CC alone (41 R255, R256, R284, R285), and the eight forms of 41
R275 over CC and one bit of ASTAT, each writing its destination alone. -/
def Obligations.WritesOfCc : Prop :=
  ∀ (rd : DReg) (n : BitVec 5) (k : AstatBit) (s : State), s.Fits 2 →
    Completes (exec (.bittst rd n) s) s (s.withCc (decide ((s.getD rd).toNat / 2 ^ n.toNat % 2 = 1))) 2 ∧
    Completes (exec (.bittstNot rd n) s) s (s.withCc (decide ((s.getD rd).toNat / 2 ^ n.toNat % 2 = 0))) 2 ∧
    Completes (exec (.dToCc rd) s) s (s.withCc (decide (s.getD rd ≠ 0#32))) 2 ∧
    Completes (exec .notCc s) s (s.withCc (!s.astat.cc)) 2 ∧
    let b := s.astat.get k
    let c := s.astat.cc
    Completes (exec (.ccSetBit k) s) s (s.withCc b) 2 ∧
    Completes (exec (.ccOrBit k) s) s (s.withCc (c || b)) 2 ∧
    Completes (exec (.ccAndBit k) s) s (s.withCc (c && b)) 2 ∧
    Completes (exec (.ccXorBit k) s) s (s.withCc (c != b)) 2 ∧
    Completes (exec (.bitSetCc k) s) s { s with astat := s.astat.put k c } 2 ∧
    Completes (exec (.bitOrCc k) s) s { s with astat := s.astat.put k (b || c) } 2 ∧
    Completes (exec (.bitAndCc k) s) s { s with astat := s.astat.put k (b && c) } 2 ∧
    Completes (exec (.bitXorCc k) s) s { s with astat := s.astat.put k (b != c) } 2

/-- Compares of data registers with a register or an immediate, signed and unsigned (41 R276 to R280): CC, AZ, AN, AC0. -/
def Obligations.ComparesOfDataRegisters : Prop :=
  ∀ (rx ry : DReg) (imm : BitVec 3) (s : State), s.Fits 2 →
    let x := s.getD rx
    let y := s.getD ry
    let i := BitVec.ofInt 32 imm.toInt
    let u := BitVec.ofNat 32 imm.toNat
    let signed (c : Bool) (z : Word) :=
      s.compared c (decide (x = z)) (decide (x.toInt < z.toInt)) (decide (z.toNat ≤ x.toNat))
    let unsigned (c : Bool) (z : Word) :=
      s.compared c (decide (x = z)) (decide (x.toNat < z.toNat)) (decide (z.toNat ≤ x.toNat))
    Completes (exec (.cmpEqD rx ry) s) s (signed (decide (x = y)) y) 2 ∧
    Completes (exec (.cmpEqDImm rx imm) s) s (signed (decide (x = i)) i) 2 ∧
    Completes (exec (.cmpLtD rx ry) s) s (signed (decide (x.toInt < y.toInt)) y) 2 ∧
    Completes (exec (.cmpLtDImm rx imm) s) s (signed (decide (x.toInt < i.toInt)) i) 2 ∧
    Completes (exec (.cmpLeD rx ry) s) s (signed (decide (x.toInt ≤ y.toInt)) y) 2 ∧
    Completes (exec (.cmpLeDImm rx imm) s) s (signed (decide (x.toInt ≤ i.toInt)) i) 2 ∧
    Completes (exec (.cmpLtuD rx ry) s) s (unsigned (decide (x.toNat < y.toNat)) y) 2 ∧
    Completes (exec (.cmpLtuDImm rx imm) s) s (unsigned (decide (x.toNat < u.toNat)) u) 2 ∧
    Completes (exec (.cmpLeuD rx ry) s) s (unsigned (decide (x.toNat ≤ y.toNat)) y) 2 ∧
    Completes (exec (.cmpLeuDImm rx imm) s) s (unsigned (decide (x.toNat ≤ u.toNat)) u) 2

/-- Compares of pointer registers write CC alone (41 R281); those of the accumulators, on 40 bits, write CC, AZ, AN and
AC0 (41 R282). -/
def Obligations.ComparesOfPointersAndAccumulators : Prop :=
  ∀ (px py : PReg) (imm : BitVec 3) (s : State), s.Fits 2 →
    let x := s.getP px
    let y := s.getP py
    let i := BitVec.ofInt 32 imm.toInt
    let u := BitVec.ofNat 32 imm.toNat
    Completes (exec (.cmpEqP px py) s) s (s.withCc (decide (x = y))) 2 ∧
    Completes (exec (.cmpEqPImm px imm) s) s (s.withCc (decide (x = i))) 2 ∧
    Completes (exec (.cmpLtP px py) s) s (s.withCc (decide (x.toInt < y.toInt))) 2 ∧
    Completes (exec (.cmpLtPImm px imm) s) s (s.withCc (decide (x.toInt < i.toInt))) 2 ∧
    Completes (exec (.cmpLeP px py) s) s (s.withCc (decide (x.toInt ≤ y.toInt))) 2 ∧
    Completes (exec (.cmpLePImm px imm) s) s (s.withCc (decide (x.toInt ≤ i.toInt))) 2 ∧
    Completes (exec (.cmpLtuP px py) s) s (s.withCc (decide (x.toNat < y.toNat))) 2 ∧
    Completes (exec (.cmpLtuPImm px imm) s) s (s.withCc (decide (x.toNat < u.toNat))) 2 ∧
    Completes (exec (.cmpLeuP px py) s) s (s.withCc (decide (x.toNat ≤ y.toNat))) 2 ∧
    Completes (exec (.cmpLeuPImm px imm) s) s (s.withCc (decide (x.toNat ≤ u.toNat))) 2 ∧
    let b := s.a0
    let c := s.a1
    let flags (z : Bool) := s.compared z (decide (b = c)) (decide (b.toInt < c.toInt)) (decide (c.toNat ≤ b.toNat))
    Completes (exec .cmpEqAcc s) s (flags (decide (b = c))) 2 ∧
    Completes (exec .cmpLtAcc s) s (flags (decide (b.toInt < c.toInt))) 2 ∧
    Completes (exec .cmpLeAcc s) s (flags (decide (b.toInt ≤ c.toInt))) 2

/-! ### Pointers, moves, immediates -/

/-- Pointer arithmetic modulo 2^32, no flag (41 R235 to R237, R240, R241, R265 to R270). -/
def Obligations.PointerArithmetic : Prop :=
  ∀ (pd p q : PReg) (imm : BitVec 7) (s : State), s.Fits 2 →
    let x := (s.getP p).toNat
    let y := (s.getP q).toNat
    let d := s.getP pd
    Completes (exec (.addP pd p q) s) s (s.setP pd (BitVec.ofNat 32 (x + y))) 2 ∧
    Completes (exec (.addPShl1 pd p q) s) s (s.setP pd (BitVec.ofNat 32 (x + 2 * y))) 2 ∧
    Completes (exec (.addPShl2 pd p q) s) s (s.setP pd (BitVec.ofNat 32 (x + 4 * y))) 2 ∧
    Completes (exec (.movImmP pd imm) s) s (s.setP pd (BitVec.ofInt 32 imm.toInt)) 2 ∧
    Completes (exec (.addImmP pd imm) s) s (s.setP pd (BitVec.ofInt 32 (d.toInt + imm.toInt))) 2 ∧
    Completes (exec (.subP pd p) s) s (s.setP pd (BitVec.ofInt 32 (d.toNat - x))) 2 ∧
    Completes (exec (.shl2P pd p) s) s (s.setP pd (BitVec.ofNat 32 (4 * x))) 2 ∧
    Completes (exec (.shr2P pd p) s) s (s.setP pd (BitVec.ofNat 32 (x / 4))) 2 ∧
    Completes (exec (.shr1P pd p) s) s (s.setP pd (BitVec.ofNat 32 (x / 2))) 2 ∧
    Completes (exec (.sumShl1P pd p) s) s (s.setP pd (BitVec.ofNat 32 (2 * (d.toNat + x)))) 2 ∧
    Completes (exec (.sumShl2P pd p) s) s (s.setP pd (BitVec.ofNat 32 (4 * (d.toNat + x)))) 2

/-- Conditional moves (41 R264). -/
def Obligations.ConditionalMoves : Prop :=
  ∀ (dst src : DPReg) (s : State), s.Fits 2 →
    (s.astat.cc = true → Completes (exec (.movIfCc dst src) s) s (s.setDP dst (s.getDP src)) 2 ∧
      Completes (exec (.movIfNotCc dst src) s) s s 2) ∧
    (s.astat.cc = false → Completes (exec (.movIfCc dst src) s) s s 2 ∧
      Completes (exec (.movIfNotCc dst src) s) s (s.setDP dst (s.getDP src)) 2)

/-- Load immediate into a half or the whole of a register of groups 0 to 3 (41 R271 to R274). -/
def Obligations.LoadImmediate : Prop :=
  ∀ (g : GenReg) (imm : BitVec 16) (s : State), s.Fits 4 →
    let old := (s.getGen g).toNat
    Completes (exec (.ldiLo g imm) s) s (s.setGen g (BitVec.ofNat 32 (old / 2 ^ 16 * 2 ^ 16 + imm.toNat))) 4 ∧
    Completes (exec (.ldiHi g imm) s) s (s.setGen g (BitVec.ofNat 32 (imm.toNat * 2 ^ 16 + old % 2 ^ 16))) 4 ∧
    Completes (exec (.ldiZ g imm) s) s (s.setGen g (BitVec.ofNat 32 imm.toNat)) 4 ∧
    Completes (exec (.ldiX g imm) s) s (s.setGen g (BitVec.ofInt 32 imm.toInt)) 4

/-- A move between any two registers that 41 R260 and R262 pair, with the side conditions of 41 R263: the destination
gets the source's value. -/
def Obligations.RegisterMoves : Prop :=
  ∀ (dst src : Reg) (s : State), s.Fits 2 → dst.movable src = true → s.mayName dst = true → s.mayName src = true →
    src ≠ .emudat → s.Accepts dst (s.valueOf src) →
    Completes (exec (.regMove dst src) s) s ((s.afterRead src).withReg dst (s.valueOf src)) 2

/-- The moves that are refused (10 R70 to R72, R83; 41 R260, R263), each under its name. -/
def Obligations.RefusedMoves : Prop :=
  ∀ (dst src : Reg) (k : LoopNo) (g : GenReg) (s : State),
    let v := s.getGen g
    let from' (d : Reg) := exec (.regMove d (.gen g)) s
    (dst.movable src = false → exec (.regMove dst src) s = .refused .notInSubset) ∧
    ((Reg.gen g).isDP = true →
      (s.mode ≠ .user → from' .seqstat = .refused .seqstatWrite ∧ from' .emudat = .refused .emudat ∧
        exec (.regMove (.gen g) .emudat) s = .refused .emudat ∧
        (¬ s.Accepts .syscfg v → from' .syscfg = .refused .syscfgWrite)) ∧
      (v.toNat % 2 = 1 → from' (.lt k) = .refused .oddLoopAddress ∧ from' (.lb k) = .refused .oddLoopAddress) ∧
      (v &&& ~~~astatMask ≠ 0#32 → from' .astat = .refused .reservedBitWrite) ∧
      (v &&& ~~~astatMask = 0#32 → ¬ s.Accepts .astat v → from' .astat = .refused .astatCopyBits))

/-! ### Control flow -/

/-- Jumps and the return from a subroutine (42 R302 to R304, R306, R313): pc alone changes. -/
def Obligations.Jumps : Prop :=
  ∀ (pn : PReg) (o12 : BitVec 12) (o24 : BitVec 24) (s : State), s.NotAtLoopEnd →
    exec (.jumpShort o12) s = .next { s with pc := BitVec.ofInt 32 (s.pc.toInt + 2 * o12.toInt) } ∧
    exec (.jumpLong o24) s = .next { s with pc := BitVec.ofInt 32 (s.pc.toInt + 2 * o24.toInt) } ∧
    exec (.jumpReg pn) s = .next { s with pc := s.getP pn } ∧
    exec (.jumpPcReg pn) s = .next { s with pc := BitVec.ofNat 32 (s.pc.toNat + (s.getP pn).toNat) } ∧
    exec .rts s = .next { s with pc := s.rets }

/-- Conditional jumps, taken and not taken; the prediction bit has no effect (42 R305, 30 R211). -/
def Obligations.ConditionalJumps : Prop :=
  ∀ (bp : Bool) (o : BitVec 10) (s : State), s.NotAtLoopEnd →
    let taken := Host.Outcome.next { s with pc := BitVec.ofInt 32 (s.pc.toInt + 2 * o.toInt) }
    (s.astat.cc = true → exec (.jumpIfCc bp o) s = taken) ∧
    (s.astat.cc = false → exec (.jumpIfNotCc bp o) s = taken) ∧
    (s.Fits 2 → s.astat.cc = false → exec (.jumpIfCc bp o) s = .next { s with pc := s.pc + 2#32 }) ∧
    (s.Fits 2 → s.astat.cc = true → exec (.jumpIfNotCc bp o) s = .next { s with pc := s.pc + 2#32 })

/-- Calls: RETS gets the address of the next instruction in order (42 R310 to R312). That a call at the last addresses of the
space completes too, with that address modulo 2^32, is the model's choice: 10 R65 refuses an advance of pc, and a call makes
none (log entry 34; DEDUCED). -/
def Obligations.Calls : Prop :=
  ∀ (pn : PReg) (o : BitVec 24) (s : State), s.NotAtLoopEnd →
    exec (.callLong o) s =
      .next { s with rets := s.pc + 4#32, pc := BitVec.ofInt 32 (s.pc.toInt + 2 * o.toInt) } ∧
    exec (.callReg pn) s = .next { s with rets := s.pc + 2#32, pc := s.getP pn } ∧
    exec (.callPcReg pn) s =
      .next { s with rets := s.pc + 2#32, pc := BitVec.ofNat 32 (s.pc.toNat + (s.getP pn).toNat) }

/-- Loop setup (42 R331): top and bottom count from the instruction's address; the counter is kept, loaded, or loaded
with half of the pointer. -/
def Obligations.LoopSetup : Prop :=
  ∀ (c : LoopNo) (so : BitVec 4) (eo : BitVec 10) (pp : PReg) (s : State),
    s.Fits 4 → s.NotAtLoopEnd → 1 ≤ so.toNat → so.toNat ≤ eo.toNat →
    let top := BitVec.ofNat 32 (s.pc.toNat + 2 * so.toNat)
    let bottom := BitVec.ofNat 32 (s.pc.toNat + 2 * eo.toNat)
    Completes (exec (.lsetup c so eo) s) s (s.setLoop c ⟨(s.getLoop c).lc, top, bottom⟩) 4 ∧
    (s.getP pp ≠ 0#32 → Completes (exec (.lsetupP c so pp eo) s) s (s.setLoop c ⟨s.getP pp, top, bottom⟩) 4) ∧
    (2 ≤ (s.getP pp).toNat → Completes (exec (.lsetupPHalf c so pp eo) s) s
      (s.setLoop c ⟨BitVec.ofNat 32 ((s.getP pp).toNat / 2), top, bottom⟩) 4)

/-- The loop corner cases of 42 R332 are refused: (a) a counter of 0, (b) a top at the setup or behind the bottom, (c) an
instruction that breaks the flow at the end of an active loop, (d) a write there to the loop's own registers. The
privilege check of a Supervisor-only instruction comes first. That this order holds, and that a conditional jump is refused
there also where it is not taken, although 42 R305 then calls it sequential, are the model's choices (log entry 13;
DEDUCED). -/
def Obligations.LoopCorners : Prop :=
  ∀ s : State,
    (∀ (c : LoopNo) (so : BitVec 4) (eo : BitVec 10) (pp : PReg),
      (so = 0#4 ∨ eo.toNat < so.toNat →
        exec (.lsetup c so eo) s = .refused .loopCornerCase ∧
        exec (.lsetupP c so pp eo) s = .refused .loopCornerCase ∧
        exec (.lsetupPHalf c so pp eo) s = .refused .loopCornerCase) ∧
      (s.getP pp = 0#32 → exec (.lsetupP c so pp eo) s = .refused .loopCornerCase) ∧
      ((s.getP pp).toNat < 2 → exec (.lsetupPHalf c so pp eo) s = .refused .loopCornerCase)) ∧
    (∀ i : Instr, breaksLoop i = true → ¬ s.NotAtLoopEnd → (isSupervisorOnly i = true → s.mode ≠ .user) →
      exec i s = .refused .loopCornerCase) ∧
    ∀ (k : LoopNo) (g : GenReg) (v : Word), s.Ends (s.getLoop k) →
      ((Reg.gen g).isDP = true →
        exec (.regMove (.lc k) (.gen g)) s = .refused .loopCornerCase ∧
        ((s.getGen g).toNat % 2 = 0 →
          exec (.regMove (.lt k) (.gen g)) s = .refused .loopCornerCase ∧
          exec (.regMove (.lb k) (.gen g)) s = .refused .loopCornerCase)) ∧
      (s.Loads s.sp 4 v →
        exec (.popReg (.lc k)) s = .refused .loopCornerCase ∧
        (v.toNat % 2 = 0 →
          exec (.popReg (.lt k)) s = .refused .loopCornerCase ∧
          exec (.popReg (.lb k)) s = .refused .loopCornerCase))

/-! ### Events and exceptions -/

/-- Returns from an interrupt or the reset level, an exception, the NMI: the event in service ends and pc is the return
address; at another level, or with an odd address, the return is refused (42 R335 to R337, 60 R443). -/
def Obligations.EventReturns : Prop :=
  ∀ (k : Nat) (s : State), s.InService k → k ≠ 0 → s.NotAtLoopEnd →
    (k = 1 ∨ 5 ≤ k →
      (s.reti.toNat % 2 = 0 → exec .rti s =
        .next { s with ipend := s.ipend &&& ~~~(BitVec.ofNat 32 (2 ^ k) ||| 0x10#32), pc := s.reti }) ∧
      (s.reti.toNat % 2 = 1 → exec .rti s = .refused .oddReturn) ∧
      exec .rtx s = .refused .returnLevel ∧ exec .rtn s = .refused .returnLevel) ∧
    (k = 3 →
      (s.retx.toNat % 2 = 0 → exec .rtx s = .next { s with ipend := s.ipend &&& ~~~8#32, pc := s.retx }) ∧
      (s.retx.toNat % 2 = 1 → exec .rtx s = .refused .oddReturn) ∧
      exec .rti s = .refused .returnLevel ∧ exec .rtn s = .refused .returnLevel) ∧
    (k = 2 →
      (s.retn.toNat % 2 = 0 → exec .rtn s = .next { s with ipend := s.ipend &&& ~~~4#32, pc := s.retn }) ∧
      (s.retn.toNat % 2 = 1 → exec .rtn s = .refused .oddReturn) ∧
      exec .rti s = .refused .returnLevel ∧ exec .rtx s = .refused .returnLevel)

/-- RTE in Emulation mode clears IPEND[0] and goes to RETE, the effect 42 R338 describes on the chip; that the model
gives it in Emulation mode, which no run enters, is the model's choice (log entry 15). In Supervisor mode it is refused,
as 42 R338 says. EMUEXCPT is refused in every state (42 R347). -/
def Obligations.EmulationInstructions : Prop :=
  ∀ s : State,
    exec .emuexcpt s = .refused .emulation ∧
    (s.NotAtLoopEnd →
      (s.mode = .emulation → s.rete.toNat % 2 = 0 →
        exec .rte s = .next { s with ipend := s.ipend &&& ~~~1#32, pc := s.rete }) ∧
      (s.mode = .supervisor → exec .rte s = .refused .emulation))

/-- RAISE latches an event; the numbers that name no event it can raise are refused (42 R340). -/
def Obligations.RaiseLatches : Prop :=
  ∀ (n : BitVec 4) (s : State), s.mode ≠ .user → s.NotAtLoopEnd →
    (n = 2#4 ∨ 5 ≤ n.toNat → s.Fits 2 →
      Completes (exec (.raise n) s) s { s with ilat := s.ilat ||| BitVec.ofNat 32 (2 ^ n.toNat) } 2) ∧
    (n = 1#4 → exec (.raise n) s = .refused .softwareReset) ∧
    (n = 0#4 ∨ n = 3#4 ∨ n = 4#4 → exec (.raise n) s = .refused .raiseNumber)

/-- EXCPT takes the service exception n: RETX is the next instruction (42 R341, 60 R440, R445); while an exception, the
NMI or the reset level is in service it is a double fault (60 R448). -/
def Obligations.ExceptionByExcpt : Prop :=
  ∀ (n : BitVec 4) (s : State), s.NotAtLoopEnd →
    (s.CanTrap → exec (.excpt n) s = .next (s.trapped (n.setWidth 6) (s.pc + 2#32))) ∧
    (¬ s.CanTrap → exec (.excpt n) s = .fault .doubleFault)

/-- CLI and STI (42 R342, R343): IMASK[15:5]; its bits 4:0 stay 1. -/
def Obligations.InterruptMask : Prop :=
  ∀ (rd : DReg) (s : State), s.mode ≠ .user → s.NotAtLoopEnd →
    let v := s.getD rd
    (s.Fits 2 → Completes (exec (.cli rd) s) s { s.setD rd s.imask with imask := 0x1F#32 } 2) ∧
    (s.Fits 2 → v.toNat < 2 ^ 16 →
      Completes (exec (.sti rd) s) s { s with imask := (v &&& 0xFFE0#32) ||| 0x1F#32 } 2) ∧
    (2 ^ 16 ≤ v.toNat → exec (.sti rd) s = .refused .reservedBitWrite)

/-- The instructions whose effect is only to go on, or to go on into the Idle state (42 R344 to R346, R348, R330): the
loop rule decides where. -/
def Obligations.NoOperationAndIdle : Prop :=
  ∀ s : State, s.Fits 2 →
    Completes (exec .nop s) s s 2 ∧ Completes (exec .csync s) s s 2 ∧ Completes (exec .ssync s) s s 2 ∧
    (s.mode ≠ .user → s.NotAtLoopEnd → Completes (exec .idle s) s { s with idle := true } 2)

/-- In User mode every Supervisor-only instruction raises IllegalUseOfSupervisorResource and changes nothing else
(42 R350, 41 R261, 43 R382). Two points are the model's choice: that the trap comes before the refusal at the end of an
active loop (log entry 13), and that a move naming EMUDAT traps by 41 R261, although 10 R72 and 92 D20 refuse any access
to EMUDAT (log entry 14). -/
def Obligations.SupervisorOnlyTraps : Prop :=
  ∀ (i : Instr) (s : State), i.wf = true → isSupervisorOnly i = true → s.mode = .user →
    exec i s = .next (s.trapped 0x2E#6 s.pc)

/-! ### Memory: loads -/

/-- Loads of a data or pointer register through a pointer, plain and post-modifying (43 R361 to R365): the value zero- or
sign-extended, then the pointer moves by the width. The post-modifying forms refuse to load their own pointer. -/
def Obligations.LoadsThroughPointers : Prop :=
  ∀ (rr : DReg) (pr pp : PReg) (v : Word) (s : State), s.Fits 2 →
    let a := s.getP pp
    let sx16 := BitVec.ofInt 32 (v.setWidth 16).toInt
    let sx8 := BitVec.ofInt 32 (v.setWidth 8).toInt
    (s.Loads a 4 v →
      Completes (exec (.ldDInd rr pp) s) s (s.setD rr v) 2 ∧
      Completes (exec (.ldDInc rr pp) s) s ((s.setD rr v).setP pp (a + 4#32)) 2 ∧
      Completes (exec (.ldDDec rr pp) s) s ((s.setD rr v).setP pp (a - 4#32)) 2) ∧
    (s.Loads a 2 v →
      Completes (exec (.ldHalfZInd rr pp) s) s (s.setD rr v) 2 ∧
      Completes (exec (.ldHalfZInc rr pp) s) s ((s.setD rr v).setP pp (a + 2#32)) 2 ∧
      Completes (exec (.ldHalfZDec rr pp) s) s ((s.setD rr v).setP pp (a - 2#32)) 2 ∧
      Completes (exec (.ldHalfXInd rr pp) s) s (s.setD rr sx16) 2 ∧
      Completes (exec (.ldHalfXInc rr pp) s) s ((s.setD rr sx16).setP pp (a + 2#32)) 2 ∧
      Completes (exec (.ldHalfXDec rr pp) s) s ((s.setD rr sx16).setP pp (a - 2#32)) 2) ∧
    (s.Loads a 1 v →
      Completes (exec (.ldByteZInd rr pp) s) s (s.setD rr v) 2 ∧
      Completes (exec (.ldByteZInc rr pp) s) s ((s.setD rr v).setP pp (a + 1#32)) 2 ∧
      Completes (exec (.ldByteZDec rr pp) s) s ((s.setD rr v).setP pp (a - 1#32)) 2 ∧
      Completes (exec (.ldByteXInd rr pp) s) s (s.setD rr sx8) 2 ∧
      Completes (exec (.ldByteXInc rr pp) s) s ((s.setD rr sx8).setP pp (a + 1#32)) 2 ∧
      Completes (exec (.ldByteXDec rr pp) s) s ((s.setD rr sx8).setP pp (a - 1#32)) 2) ∧
    (s.Loads a 4 v → Completes (exec (.ldPInd pr pp) s) s (s.setP pr v) 2) ∧
    (s.Loads a 4 v → pr ≠ pp →
      Completes (exec (.ldPInc pr pp) s) s ((s.setP pr v).setP pp (a + 4#32)) 2 ∧
      Completes (exec (.ldPDec pr pp) s) s ((s.setP pr v).setP pp (a - 4#32)) 2) ∧
    (pr = pp → exec (.ldPInc pr pp) s = .refused .loadIntoPostModified ∧
      exec (.ldPDec pr pp) s = .refused .loadIntoPostModified)

/-- The addresses of the offset forms (30 R198, R199, R203; 43 R368 to R375): short offsets are unsigned, long ones
signed, each in units of the width; the frame offset is (offset - 32) * 4. -/
def Obligations.OffsetAddresses : Prop :=
  ∀ (s : State) (pp : PReg) (o4 : BitVec 4) (o5 : BitVec 5) (o16 : BitVec 16) (z : Size),
    shortAddress s pp o4 z = BitVec.ofNat 32 ((s.getP pp).toNat + z.bytes * o4.toNat) ∧
    longAddress s pp o16 z = BitVec.ofInt 32 ((s.getP pp).toInt + z.bytes * o16.toInt) ∧
    frameAddress s o5 = BitVec.ofInt 32 ((s.getP .fp).toInt + ((o5.toNat : Int) - 32) * 4)

/-- Loads with an offset (43 R368 to R370, R372 to R375): the pointer is unchanged. -/
def Obligations.LoadsWithOffset : Prop :=
  ∀ (rr : DReg) (pr pp : PReg) (o4 : BitVec 4) (o5 : BitVec 5) (o16 : BitVec 16) (v : Word) (s : State),
    let sx16 := BitVec.ofInt 32 (v.setWidth 16).toInt
    let sx8 := BitVec.ofInt 32 (v.setWidth 8).toInt
    (s.Fits 2 →
      (s.Loads (shortAddress s pp o4 .word) 4 v →
        Completes (exec (.ldDOff rr pp o4) s) s (s.setD rr v) 2 ∧
        Completes (exec (.ldPOff pr pp o4) s) s (s.setP pr v) 2) ∧
      (s.Loads (shortAddress s pp o4 .half) 2 v →
        Completes (exec (.ldHalfZOff rr pp o4) s) s (s.setD rr v) 2 ∧
        Completes (exec (.ldHalfXOff rr pp o4) s) s (s.setD rr sx16) 2) ∧
      (s.Loads (frameAddress s o5) 4 v →
        Completes (exec (.ldDFp rr o5) s) s (s.setD rr v) 2 ∧
        Completes (exec (.ldPFp pr o5) s) s (s.setP pr v) 2)) ∧
    (s.Fits 4 →
      (s.Loads (longAddress s pp o16 .word) 4 v →
        Completes (exec (.ldDIdx rr pp o16) s) s (s.setD rr v) 4 ∧
        Completes (exec (.ldPIdx pr pp o16) s) s (s.setP pr v) 4) ∧
      (s.Loads (longAddress s pp o16 .half) 2 v →
        Completes (exec (.ldHalfZIdx rr pp o16) s) s (s.setD rr v) 4 ∧
        Completes (exec (.ldHalfXIdx rr pp o16) s) s (s.setD rr sx16) 4) ∧
      (s.Loads (longAddress s pp o16 .byte) 1 v →
        Completes (exec (.ldByteZIdx rr pp o16) s) s (s.setD rr v) 4 ∧
        Completes (exec (.ldByteXIdx rr pp o16) s) s (s.setD rr sx8) 4))

/-! ### Memory: stores -/

/-- Stores through a pointer, plain and post-modifying (43 R361, R366, R367): the value read before the pointer moves. -/
def Obligations.StoresThroughPointers : Prop :=
  ∀ (rr : DReg) (pr pp : PReg) (s : State), s.Fits 2 →
    let a := s.getP pp
    let d := s.getD rr
    StoresWord (exec (.stDInd rr pp) s) s s 2 a d ∧
    StoresWord (exec (.stDInc rr pp) s) s (s.setP pp (a + 4#32)) 2 a d ∧
    StoresWord (exec (.stDDec rr pp) s) s (s.setP pp (a - 4#32)) 2 a d ∧
    StoresWord (exec (.stPInd pr pp) s) s s 2 a (s.getP pr) ∧
    StoresWord (exec (.stPInc pr pp) s) s (s.setP pp (a + 4#32)) 2 a (s.getP pr) ∧
    StoresWord (exec (.stPDec pr pp) s) s (s.setP pp (a - 4#32)) 2 a (s.getP pr) ∧
    (s.CanStore a 2 →
      CompletesStoring (exec (.stHalfInd rr pp) s) s s 2 a.toNat 2 d ∧
      CompletesStoring (exec (.stHalfInc rr pp) s) s (s.setP pp (a + 2#32)) 2 a.toNat 2 d ∧
      CompletesStoring (exec (.stHalfDec rr pp) s) s (s.setP pp (a - 2#32)) 2 a.toNat 2 d) ∧
    (s.CanStore a 1 →
      CompletesStoring (exec (.stByteInd rr pp) s) s s 2 a.toNat 1 d ∧
      CompletesStoring (exec (.stByteInc rr pp) s) s (s.setP pp (a + 1#32)) 2 a.toNat 1 d ∧
      CompletesStoring (exec (.stByteDec rr pp) s) s (s.setP pp (a - 1#32)) 2 a.toNat 1 d)

/-- Stores with an offset (43 R371 to R375): no register changes. -/
def Obligations.StoresWithOffset : Prop :=
  ∀ (rr : DReg) (pr pp : PReg) (o4 : BitVec 4) (o5 : BitVec 5) (o16 : BitVec 16) (s : State),
    let d := s.getD rr
    (s.Fits 2 →
      StoresWord (exec (.stDOff rr pp o4) s) s s 2 (shortAddress s pp o4 .word) d ∧
      StoresWord (exec (.stPOff pr pp o4) s) s s 2 (shortAddress s pp o4 .word) (s.getP pr) ∧
      StoresWord (exec (.stDFp rr o5) s) s s 2 (frameAddress s o5) d ∧
      StoresWord (exec (.stPFp pr o5) s) s s 2 (frameAddress s o5) (s.getP pr) ∧
      (s.CanStore (shortAddress s pp o4 .half) 2 →
        CompletesStoring (exec (.stHalfOff rr pp o4) s) s s 2 (shortAddress s pp o4 .half).toNat 2 d)) ∧
    (s.Fits 4 →
      StoresWord (exec (.stDIdx rr pp o16) s) s s 4 (longAddress s pp o16 .word) d ∧
      StoresWord (exec (.stPIdx pr pp o16) s) s s 4 (longAddress s pp o16 .word) (s.getP pr) ∧
      (s.CanStore (longAddress s pp o16 .half) 2 →
        CompletesStoring (exec (.stHalfIdx rr pp o16) s) s s 4 (longAddress s pp o16 .half).toNat 2 d) ∧
      (s.CanStore (longAddress s pp o16 .byte) 1 →
        CompletesStoring (exec (.stByteIdx rr pp o16) s) s s 4 (longAddress s pp o16 .byte).toNat 1 d))

/-- Access through a pointer that a pointer moves, and the half-register forms (43 R376). With the pointer as its own
index the whole-register forms are refused and the half-register forms leave the pointer. -/
def Obligations.PointerModifiedAccess : Prop :=
  ∀ (rr : DReg) (pp pi : PReg) (v : Word) (s : State), s.Fits 2 →
    let a := s.getP pp
    let d := (s.getD rr).toNat
    let lo := s.setD rr (BitVec.ofNat 32 (d / 2 ^ 16 * 2 ^ 16 + v.toNat))
    let hi := s.setD rr (BitVec.ofNat 32 (v.toNat * 2 ^ 16 + d % 2 ^ 16))
    let sx16 := BitVec.ofInt 32 (v.setWidth 16).toInt
    let moved (t : State) := t.setP pp (a + s.getP pi)
    (pi ≠ pp →
      (s.Loads a 4 v → Completes (exec (.ldPmod rr pp pi) s) s (moved (s.setD rr v)) 2) ∧
      (s.Loads a 2 v →
        Completes (exec (.ldPmodLo rr pp pi) s) s (moved lo) 2 ∧
        Completes (exec (.ldPmodHi rr pp pi) s) s (moved hi) 2 ∧
        Completes (exec (.ldPmodHalfZ rr pp pi) s) s (moved (s.setD rr v)) 2 ∧
        Completes (exec (.ldPmodHalfX rr pp pi) s) s (moved (s.setD rr sx16)) 2) ∧
      StoresWord (exec (.stPmod rr pp pi) s) s (moved s) 2 a (s.getD rr) ∧
      (s.CanStore a 2 →
        CompletesStoring (exec (.stPmodLo rr pp pi) s) s (moved s) 2 a.toNat 2 (s.getD rr) ∧
        CompletesStoring (exec (.stPmodHi rr pp pi) s) s (moved s) 2 a.toNat 2 (BitVec.ofNat 32 (d / 2 ^ 16)))) ∧
    (pi = pp →
      (s.Loads a 2 v →
        Completes (exec (.ldPmodLo rr pp pi) s) s lo 2 ∧ Completes (exec (.ldPmodHi rr pp pi) s) s hi 2) ∧
      (s.CanStore a 2 →
        CompletesStoring (exec (.stPmodLo rr pp pi) s) s s 2 a.toNat 2 (s.getD rr) ∧
        CompletesStoring (exec (.stPmodHi rr pp pi) s) s s 2 a.toNat 2 (BitVec.ofNat 32 (d / 2 ^ 16))) ∧
      exec (.ldPmod rr pp pi) s = .refused .notInSubset ∧
      exec (.ldPmodHalfZ rr pp pi) s = .refused .notInSubset ∧
      exec (.ldPmodHalfX rr pp pi) s = .refused .notInSubset ∧
      exec (.stPmod rr pp pi) s = .refused .notInSubset)

/-! ### Index registers -/

/-- The index modifications (43 R400, R402, R403): linear with a length of 0, inside the circular buffer otherwise, and
refused outside the conditions of 43 R400. -/
def Obligations.IndexModification : Prop :=
  ∀ (i m : Quad) (s : State), s.Fits 2 →
    let moves (ins : Instr) (z : Int) :=
      (∀ w, s.IndexMoves i z w → Completes (exec ins s) s (s.setI i w) 2) ∧
      (s.IndexCorner i z → exec ins s = .refused .circularCorner)
    moves (.addIM i m) (s.m.get m).toInt ∧ moves (.subIM i m) (-(s.m.get m).toInt) ∧
    moves (.addI2 i) 2 ∧ moves (.subI2 i) (-2) ∧ moves (.addI4 i) 4 ∧ moves (.subI4 i) (-4)

/-- Loads through an index register (43 R404 to R406): the address is the old index, which then moves; a move outside the
conditions of 43 R400 is refused, good though the access is. -/
def Obligations.IndexLoads : Prop :=
  ∀ (rr : DReg) (i m : Quad) (v w : Word) (s : State), s.Fits 2 →
    let a := s.i.get i
    let d := (s.getD rr).toNat
    let lo := s.setD rr (BitVec.ofNat 32 (d / 2 ^ 16 * 2 ^ 16 + v.toNat))
    let hi := s.setD rr (BitVec.ofNat 32 (v.toNat * 2 ^ 16 + d % 2 ^ 16))
    let loads (ins : Instr) (z : Int) (t : State) :=
      (s.IndexMoves i z w → Completes (exec ins s) s (t.setI i w) 2) ∧
      (s.IndexCorner i z → exec ins s = .refused .circularCorner)
    (s.Loads a 4 v →
      Completes (exec (.ldIInd rr i) s) s (s.setD rr v) 2 ∧
      loads (.ldIInc rr i) 4 (s.setD rr v) ∧ loads (.ldIDec rr i) (-4) (s.setD rr v) ∧
      loads (.ldIMod rr i m) (s.m.get m).toInt (s.setD rr v)) ∧
    (s.Loads a 2 v →
      Completes (exec (.ldILoInd rr i) s) s lo 2 ∧ Completes (exec (.ldIHiInd rr i) s) s hi 2 ∧
      loads (.ldILoInc rr i) 2 lo ∧ loads (.ldILoDec rr i) (-2) lo ∧
      loads (.ldIHiInc rr i) 2 hi ∧ loads (.ldIHiDec rr i) (-2) hi)

/-- Stores through an index register (43 R404 to R406): the address is the old index, which then moves; a move outside the
conditions of 43 R400 is refused, good though the access is. -/
def Obligations.IndexStores : Prop :=
  ∀ (rr : DReg) (i m : Quad) (w : Word) (s : State), s.Fits 2 →
    let a := s.i.get i
    let d := s.getD rr
    let high := BitVec.ofNat 32 (d.toNat / 2 ^ 16)
    let words (ins : Instr) (z : Int) :=
      (s.IndexMoves i z w → StoresWord (exec ins s) s (s.setI i w) 2 a d) ∧
      (s.IndexCorner i z → s.TakesWord a d → exec ins s = .refused .circularCorner)
    let halves (ins : Instr) (z : Int) (x : Word) :=
      (s.IndexMoves i z w → CompletesStoring (exec ins s) s (s.setI i w) 2 a.toNat 2 x) ∧
      (s.IndexCorner i z → exec ins s = .refused .circularCorner)
    (StoresWord (exec (.stIInd rr i) s) s s 2 a d ∧
      words (.stIInc rr i) 4 ∧ words (.stIDec rr i) (-4) ∧ words (.stIMod rr i m) (s.m.get m).toInt) ∧
    (s.CanStore a 2 →
      CompletesStoring (exec (.stILoInd rr i) s) s s 2 a.toNat 2 d ∧
      CompletesStoring (exec (.stIHiInd rr i) s) s s 2 a.toNat 2 high ∧
      halves (.stILoInc rr i) 2 d ∧ halves (.stILoDec rr i) (-2) d ∧
      halves (.stIHiInc rr i) 2 high ∧ halves (.stIHiDec rr i) (-2) high)

/-! ### The stack -/

/-- A pop of a register of groups 2 to 7 (43 R381, 60 R444): the register takes the word at SP, SP rises by 4, and a pop
of RETI sets IPEND[4]. -/
def Obligations.PopOfRegister : Prop :=
  ∀ (r : Reg) (v : Word) (s : State), s.Fits 2 → r.poppable = true → r ≠ .emudat → s.mayName r = true →
    s.Loads s.sp 4 v → s.Accepts r v →
    let u := (s.withReg r v).setSp (s.sp + 4#32)
    Completes (exec (.popReg r) s) s { u with ipend := if r = .reti then u.ipend ||| 0x10#32 else u.ipend } 2

/-- A push of a register (43 R380, 60 R444): its value goes below SP, SP falls by 4, and a push of RETI clears IPEND[4];
a push or pop of EMUDAT, and a push of SP or a pop of a data or pointer register, is refused (43 R382, 30 R210). -/
def Obligations.PushOfRegister : Prop :=
  ∀ (r : Reg) (s : State),
    (s.Fits 2 → r.pushable = true → r ≠ .emudat → s.mayName r = true →
      let u := (s.afterRead r).setSp (s.sp - 4#32)
      StoresWord (exec (.pushReg r) s) s
        { u with ipend := if r = .reti then u.ipend &&& ~~~0x10#32 else u.ipend } 2 (s.sp - 4#32) (s.valueOf r)) ∧
    exec (.pushReg .emudat) s = .refused .emudat ∧ exec (.popReg .emudat) s = .refused .emudat ∧
    (r.pushable = false → exec (.pushReg r) s = .refused .notInSubset) ∧
    (r.poppable = false → exec (.popReg r) s = .refused .notInSubset)

/-- Push multiple (43 R384): register j of the list goes to the word at SP - 4 * (j + 1), data registers first; every
other byte of memory keeps. -/
def Obligations.PushMultiple : Prop :=
  ∀ (dr : DReg) (pr : PReg) (s : State), s.Fits 2 →
    let slot (j : Nat) := s.sp - BitVec.ofNat 32 (4 * (j + 1))
    let pushes (ins : Instr) (rs : List DPReg) :=
      (∀ j, j < rs.length → s.CanStore (slot j) 4) →
        ∃ t, exec ins s = .next t ∧
          { s.setSp (s.sp - BitVec.ofNat 32 (4 * rs.length)) with mem := t.mem, stored := t.stored }.Advanced t 2 ∧
          (∀ j, (h : j < rs.length) → t.Holds (slot j).toNat 4 (s.getDP rs[j])) ∧
          (∀ x, (∀ j, j < rs.length → x < (slot j).toNat ∨ (slot j).toNat + 4 ≤ x) → t.byteAt x = s.byteAt x) ∧
          ∀ x, x ∈ t.stored ↔
            x ∈ s.stored ∨ ∃ j, j < rs.length ∧ (slot j).toNat ≤ x ∧ x < (slot j).toNat + 4
    pushes (.pushMultD dr) ((dregsFrom dr).map .d) ∧
    (pr.numbered = true →
      pushes (.pushMultP pr) ((pregsFrom pr).map .p) ∧
      pushes (.pushMultDP dr pr) ((dregsFrom dr).map .d ++ (pregsFrom pr).map .p))

/-- Pop multiple (43 R385): register j of the list takes the word that push multiple puts there, and SP rises by the
size of all. -/
def Obligations.PopMultiple : Prop :=
  ∀ (dr : DReg) (pr : PReg) (vs : List Word) (s : State), s.Fits 2 →
    let n := vs.length
    let pops (ins : Instr) (rs : List DPReg) :=
      rs.length = n → (∀ j, (h : j < n) → s.Loads (s.sp + BitVec.ofNat 32 (4 * (n - 1 - j))) 4 vs[j]) →
        Completes (exec ins s) s ((s.withAll (rs.zip vs)).setSp (s.sp + BitVec.ofNat 32 (4 * n))) 2
    pops (.popMultD dr) ((dregsFrom dr).map .d) ∧
    (pr.numbered = true →
      pops (.popMultP pr) ((pregsFrom pr).map .p) ∧
      pops (.popMultDP dr pr) ((dregsFrom dr).map .d ++ (pregsFrom pr).map .p))

/-- LINK saves RETS and FP below SP, makes FP the new frame and takes the frame's size off SP (43 R388). UNLINK gives
back FP and RETS from the frame, and SP from above it (43 R389). -/
def Obligations.Frames : Prop :=
  (∀ (f : BitVec 16) (s : State), s.Fits 4 → s.CanStore (s.sp - 4#32) 4 → s.CanStore (s.sp - 8#32) 4 →
    let u := (s.setP .fp (s.sp - 8#32)).setSp (s.sp - BitVec.ofNat 32 (8 + 4 * f.toNat))
    let lo := (s.sp - 8#32).toNat
    ∃ t, exec (.link f) s = .next t ∧ { u with mem := t.mem, stored := t.stored }.Advanced t 4 ∧
      t.Holds (s.sp - 4#32).toNat 4 s.rets ∧ t.Holds lo 4 (s.getP .fp) ∧
      (∀ x, x < lo ∨ lo + 8 ≤ x → t.byteAt x = s.byteAt x) ∧
      ∀ x, x ∈ t.stored ↔ x ∈ s.stored ∨ (lo ≤ x ∧ x < lo + 8)) ∧
  ∀ (v w : Word) (s : State), s.Fits 4 → s.Loads (s.getP .fp) 4 v → s.Loads (s.getP .fp + 4#32) 4 w →
    Completes (exec .unlink s) s { (s.setSp (s.getP .fp + 8#32)).setP .fp v with rets := w } 4

/-! ### TESTSET and cache control -/

/-- TESTSET sets CC if the byte is 0 and sets bit 7 of the byte, in external memory that exists; at every other address,
and through SP or FP, it is refused (42 R349; 20 R138, R143, R145), and a byte without value faults (10 R91). That SP and FP
are looked at before the region is the model's choice of order (log entry 37). -/
def Obligations.TestSet : Prop :=
  ∀ (pn : PReg) (v : Word) (s : State),
    let a := s.getP pn
    (pn = .sp ∨ pn = .fp → exec (.testset pn) s = .refused .testsetPointer) ∧
    (pn ≠ .sp → pn ≠ .fp →
      (s.Fits 2 → s.platform.External a.toNat → s.Loads a 1 v → s.CanStore a 1 →
        CompletesStoring (exec (.testset pn) s) s (s.withCc (decide (v = 0#32))) 2 a.toNat 1 (v ||| 0x80#32)) ∧
      ((0x08000000 ≤ a.toNat ∧ a.toNat < 0x20000000) ∨ 0x20400000 ≤ a.toNat →
        exec (.testset pn) s = .refused .testsetRegion) ∧
      (a.toNat < 0x08000000 ∨ (0x20000000 ≤ a.toNat ∧ a.toNat < 0x20400000) → ¬ s.platform.External a.toNat →
        exec (.testset pn) s = .refused .unpopulatedAddress) ∧
      (s.platform.External a.toNat → s.byteAt a.toNat = none → exec (.testset pn) s = .fault .readOfUnwritten) ∧
      (s.platform.External a.toNat → s.byteAt a.toNat ≠ none → a.toNat ∈ s.fetched →
        exec (.testset pn) s = .refused .storeToCode))

/-- The cache-control instructions have no effect but the move of the pointer by 32 in the `++` form (43 R410 to
R413). -/
def Obligations.CacheControl : Prop :=
  ∀ (pp : PReg) (s : State), s.Fits 2 →
    let moved := s.setP pp (s.getP pp + 32#32)
    Completes (exec (.prefetch false pp) s) s s 2 ∧ Completes (exec (.prefetch true pp) s) s moved 2 ∧
    Completes (exec (.flushinv false pp) s) s s 2 ∧ Completes (exec (.flushinv true pp) s) s moved 2 ∧
    Completes (exec (.flush false pp) s) s s 2 ∧ Completes (exec (.flush true pp) s) s moved 2 ∧
    Completes (exec (.iflush false pp) s) s s 2 ∧ Completes (exec (.iflush true pp) s) s moved 2

/-! ### Where accesses trap or stop -/

/-- A misaligned access raises DataMisaligned before anything changes, or is a double fault (20 R133, 42 R300 step 4,
60 R446, R448): every instruction whose first data access is of 2 or 4 bytes. The record it leaves is
that of 60 R445, its status a free value (log entry 39). That an index form traps also where its
move of the index would be refused is read from the order of 43 R404 to R406 (DEDUCED, unsafe: log entry 26). That a store
traps also where its bytes overlap fetched code is the model's choice of order (DESIGN CHOICE, unsafe: log entry 40). -/
def Obligations.MisalignedAccessTraps : Prop :=
  ∀ (i : Instr) (s : State) (a : Word) (n : Nat), dataAccess s i = some (a, n) → a.toNat < 0xFFC00000 →
    a.toNat % n ≠ 0 →
    (s.CanTrap → exec i s = .next ((s.dataFault a).trapped 0x24#6 s.pc)) ∧ (¬ s.CanTrap → exec i s = .fault .doubleFault)

/-- An access to MMR space (20 R137), by every instruction with a data access: in User mode IllegalUseOfSupervisorResource;
otherwise refused where no register of 10 R74 and R75 is, and where the access is not of all 32 bits; which of the two names
an access has that is both is the model's choice (log entry 25). Stores that a register does not take are refused (60 R431,
10 R83). A load of the running core timer's count does what it would do with the timer stopped at a free value (60 R461;
log entry 5), and `Rr = [Pp]` so completes. -/
def Obligations.MmrAccessStops : Prop :=
  (∀ (i : Instr) (s : State) (a : Word) (n : Nat), dataAccess s i = some (a, n) → 0xFFC00000 ≤ a.toNat →
    (s.mode = .user → exec i s = .next (s.trapped 0x2E#6 s.pc)) ∧
    (s.mode ≠ .user →
      ((∀ m, a.toNat < mmrAddress m ∨ mmrAddress m + 4 ≤ a.toNat) →
        exec i s = .refused (.unmodelledMmr (mmrName a.toNat))) ∧
      (∀ m, mmrAddress m ≤ a.toNat → a.toNat < mmrAddress m + 4 → n ≠ 4 ∨ a.toNat ≠ mmrAddress m →
        exec i s = .refused .mmrWidth))) ∧
  (∀ (i : Instr) (s : State) (a : Word) (m : CoreMmr), dataAccess s i = some (a, 4) → a.toNat = mmrAddress m →
    s.mode ≠ .user →
    (∀ v, firstStored s i = some v →
      (m = .ipend → exec i s = .refused .readOnlyMmr) ∧
      (m ≠ .ipend → ¬ mmrAccepts m v → exec i s = .refused .reservedBitWrite)) ∧
    (m = .tcount → s.timer.runs = true → firstStored s i = none → ∀ u,
      exec i { s with timer := { s.timer with tcntl := 0#32, tcount := Config.freeWord s.draws } } = .next u →
        exec i s = .next { u with timer := s.timer, draws := s.draws + 1 })) ∧
  ∀ (rr : DReg) (pp : PReg) (s : State), s.mode ≠ .user → (s.getP pp).toNat = mmrAddress .tcount →
    s.timer.runs = true → s.Fits 2 →
    Completes (exec (.ldDInd rr pp) s) s
      { s.setD rr (Config.freeWord s.draws) with draws := s.draws + 1 } 2

/-- Aligned accesses below the MMRs that stop (20 R136 (a), R138, R146; 10 R91), by every instruction with a data access,
at its first access: in L1 instruction memory; where a byte does not exist; stores to the boot ROM; loads of a byte without
value; stores to a byte that an instruction was fetched from (20 R143 as log entry 9 reads it). That this refusal is the last of
a store's, so that the boot ROM's is named first, is the model's choice (log entry 40). -/
def Obligations.UnreachableAccess : Prop :=
  ∀ (i : Instr) (s : State) (a : Word) (n : Nat), dataAccess s i = some (a, n) → a.toNat % n = 0 →
    a.toNat < 0xFFC00000 →
    let l1 := 0xFFA00000 ≤ a.toNat ∧ a.toNat < 0xFFA14000
    let bytes (p : Nat → Prop) := ∀ k, k < n → p (a.toNat + k)
    (l1 → exec i s = .refused .dataAccessToInstrMem) ∧
    (¬ l1 → ¬ bytes s.platform.DataReadable → exec i s = .refused .unpopulatedAddress) ∧
    (0xEF000000 ≤ a.toNat → a.toNat < 0xEF000400 → (firstStored s i).isSome = true → exec i s = .refused .romWrite) ∧
    (bytes s.platform.DataReadable → ¬ bytes (fun x => s.byteAt x ≠ none) → firstStored s i = none →
      exec i s = .fault .readOfUnwritten) ∧
    (bytes s.platform.DataRam → ¬ bytes (fun x => x ∉ s.fetched) → (firstStored s i).isSome = true →
      exec i s = .refused .storeToCode)

/-! ### The whole machine -/

/-- The reset state is a good state (`State.Inv`). The parts of it about registers without a reset value in the spec
hold for the values of log entry 2. -/
def Obligations.ResetIsGood : Prop := State.reset.Inv

/-- Every step from a good state leads to a good state: canonical memory, code apart from stored data (20 R143), reserved
bits as they read (10 R64 to R75, R83), IMASK[4:0] at 1 (10 R74), no Emulation mode (60 R425), even loop addresses
(41 R263). -/
def Obligations.StepKeepsGoodStates : Prop :=
  ∀ s t : State, s.Inv → step s = .next t → t.Inv

/-- No instruction changes a byte that was fetched as code (20 R143): every next state has them as they were. -/
def Obligations.CodeIsImmutable : Prop :=
  ∀ (i : Instr) (s t : State), exec i s = .next t →
    t.fetched = s.fetched ∧ ∀ x, x ∈ s.fetched → t.byteAt x = s.byteAt x

/-- In User mode no instruction changes what belongs to Supervisor mode, unless it takes an exception, which changes
what 60 R440 says and leaves the record of 60 R445 (log entry 39), and nothing else (60 R423, R424, R426). -/
def Obligations.UserIsolation : Prop :=
  ∀ (i : Instr) (s t : State), s.mode = .user → exec i s = .next t →
    s.SameSupervisor t ∨ s.TrapsTo t

/-- Among the instructions: only RTI, RTX and RTN leave Supervisor mode for User mode, only RTE leaves Emulation mode (log
entry 15), and only an exception leaves User mode (60 R423). The entry of interrupts and of the NMI is EventEntry's. -/
def Obligations.ModeTransitions : Prop :=
  ∀ (i : Instr) (s t : State), exec i s = .next t →
    (s.mode = .supervisor → t.mode ≠ .supervisor → t.mode = .user ∧ (i = .rti ∨ i = .rtx ∨ i = .rtn)) ∧
    (s.mode = .emulation → t.mode ≠ .emulation → i = .rte) ∧
    (s.mode = .user → t.mode ≠ .user → s.TrapsTo t)

end
end

