-- ==== Sys2Proof/Laws/State.lean ====
section
/-! SUPPORT. What each named update of the state leaves of each field, and what its reads give back. -/

namespace Sys2Proof.Machine

/-! ### A data register -/

@[simp] theorem State.setD_r (s : State) (n : DReg) (v : Word) : (s.setD n v).r = s.r.set n v := rfl
@[simp] theorem State.setD_p (s : State) (n : DReg) (v : Word) : (s.setD n v).p = s.p := rfl
@[simp] theorem State.setD_spSup (s : State) (n : DReg) (v : Word) : (s.setD n v).spSup = s.spSup := rfl
@[simp] theorem State.setD_usp (s : State) (n : DReg) (v : Word) : (s.setD n v).usp = s.usp := rfl
@[simp] theorem State.setD_i (s : State) (n : DReg) (v : Word) : (s.setD n v).i = s.i := rfl
@[simp] theorem State.setD_m (s : State) (n : DReg) (v : Word) : (s.setD n v).m = s.m := rfl
@[simp] theorem State.setD_b (s : State) (n : DReg) (v : Word) : (s.setD n v).b = s.b := rfl
@[simp] theorem State.setD_l (s : State) (n : DReg) (v : Word) : (s.setD n v).l = s.l := rfl
@[simp] theorem State.setD_a0 (s : State) (n : DReg) (v : Word) : (s.setD n v).a0 = s.a0 := rfl
@[simp] theorem State.setD_a1 (s : State) (n : DReg) (v : Word) : (s.setD n v).a1 = s.a1 := rfl
@[simp] theorem State.setD_astat (s : State) (n : DReg) (v : Word) : (s.setD n v).astat = s.astat := rfl
@[simp] theorem State.setD_pc (s : State) (n : DReg) (v : Word) : (s.setD n v).pc = s.pc := rfl
@[simp] theorem State.setD_rets (s : State) (n : DReg) (v : Word) : (s.setD n v).rets = s.rets := rfl
@[simp] theorem State.setD_reti (s : State) (n : DReg) (v : Word) : (s.setD n v).reti = s.reti := rfl
@[simp] theorem State.setD_retx (s : State) (n : DReg) (v : Word) : (s.setD n v).retx = s.retx := rfl
@[simp] theorem State.setD_retn (s : State) (n : DReg) (v : Word) : (s.setD n v).retn = s.retn := rfl
@[simp] theorem State.setD_rete (s : State) (n : DReg) (v : Word) : (s.setD n v).rete = s.rete := rfl
@[simp] theorem State.setD_loop0 (s : State) (n : DReg) (v : Word) : (s.setD n v).loop0 = s.loop0 := rfl
@[simp] theorem State.setD_loop1 (s : State) (n : DReg) (v : Word) : (s.setD n v).loop1 = s.loop1 := rfl
@[simp] theorem State.setD_seqstat (s : State) (n : DReg) (v : Word) : (s.setD n v).seqstat = s.seqstat := rfl
@[simp] theorem State.setD_syscfg (s : State) (n : DReg) (v : Word) : (s.setD n v).syscfg = s.syscfg := rfl
@[simp] theorem State.setD_emudat (s : State) (n : DReg) (v : Word) : (s.setD n v).emudat = s.emudat := rfl
@[simp] theorem State.setD_evt (s : State) (n : DReg) (v : Word) : (s.setD n v).evt = s.evt := rfl
@[simp] theorem State.setD_imask (s : State) (n : DReg) (v : Word) : (s.setD n v).imask = s.imask := rfl
@[simp] theorem State.setD_ipend (s : State) (n : DReg) (v : Word) : (s.setD n v).ipend = s.ipend := rfl
@[simp] theorem State.setD_ilat (s : State) (n : DReg) (v : Word) : (s.setD n v).ilat = s.ilat := rfl
@[simp] theorem State.setD_iprio (s : State) (n : DReg) (v : Word) : (s.setD n v).iprio = s.iprio := rfl
@[simp] theorem State.setD_timer (s : State) (n : DReg) (v : Word) : (s.setD n v).timer = s.timer := rfl
@[simp] theorem State.setD_sys (s : State) (n : DReg) (v : Word) : (s.setD n v).sys = s.sys := rfl
@[simp] theorem State.setD_idle (s : State) (n : DReg) (v : Word) : (s.setD n v).idle = s.idle := rfl
@[simp] theorem State.setD_mem (s : State) (n : DReg) (v : Word) : (s.setD n v).mem = s.mem := rfl
@[simp] theorem State.setD_platform (s : State) (n : DReg) (v : Word) : (s.setD n v).platform = s.platform := rfl
@[simp] theorem State.setD_fetched (s : State) (n : DReg) (v : Word) : (s.setD n v).fetched = s.fetched := rfl
@[simp] theorem State.setD_stored (s : State) (n : DReg) (v : Word) : (s.setD n v).stored = s.stored := rfl
@[simp] theorem State.setD_arrivals (s : State) (n : DReg) (v : Word) : (s.setD n v).arrivals = s.arrivals := rfl
@[simp] theorem State.setD_draws (s : State) (n : DReg) (v : Word) : (s.setD n v).draws = s.draws := rfl

/-! ### An index register -/

@[simp] theorem State.setI_i (s : State) (n : Quad) (v : Word) : (s.setI n v).i = s.i.set n v := rfl
@[simp] theorem State.setI_r (s : State) (n : Quad) (v : Word) : (s.setI n v).r = s.r := rfl
@[simp] theorem State.setI_p (s : State) (n : Quad) (v : Word) : (s.setI n v).p = s.p := rfl
@[simp] theorem State.setI_spSup (s : State) (n : Quad) (v : Word) : (s.setI n v).spSup = s.spSup := rfl
@[simp] theorem State.setI_usp (s : State) (n : Quad) (v : Word) : (s.setI n v).usp = s.usp := rfl
@[simp] theorem State.setI_m (s : State) (n : Quad) (v : Word) : (s.setI n v).m = s.m := rfl
@[simp] theorem State.setI_b (s : State) (n : Quad) (v : Word) : (s.setI n v).b = s.b := rfl
@[simp] theorem State.setI_l (s : State) (n : Quad) (v : Word) : (s.setI n v).l = s.l := rfl
@[simp] theorem State.setI_a0 (s : State) (n : Quad) (v : Word) : (s.setI n v).a0 = s.a0 := rfl
@[simp] theorem State.setI_a1 (s : State) (n : Quad) (v : Word) : (s.setI n v).a1 = s.a1 := rfl
@[simp] theorem State.setI_astat (s : State) (n : Quad) (v : Word) : (s.setI n v).astat = s.astat := rfl
@[simp] theorem State.setI_pc (s : State) (n : Quad) (v : Word) : (s.setI n v).pc = s.pc := rfl
@[simp] theorem State.setI_rets (s : State) (n : Quad) (v : Word) : (s.setI n v).rets = s.rets := rfl
@[simp] theorem State.setI_reti (s : State) (n : Quad) (v : Word) : (s.setI n v).reti = s.reti := rfl
@[simp] theorem State.setI_retx (s : State) (n : Quad) (v : Word) : (s.setI n v).retx = s.retx := rfl
@[simp] theorem State.setI_retn (s : State) (n : Quad) (v : Word) : (s.setI n v).retn = s.retn := rfl
@[simp] theorem State.setI_rete (s : State) (n : Quad) (v : Word) : (s.setI n v).rete = s.rete := rfl
@[simp] theorem State.setI_loop0 (s : State) (n : Quad) (v : Word) : (s.setI n v).loop0 = s.loop0 := rfl
@[simp] theorem State.setI_loop1 (s : State) (n : Quad) (v : Word) : (s.setI n v).loop1 = s.loop1 := rfl
@[simp] theorem State.setI_seqstat (s : State) (n : Quad) (v : Word) : (s.setI n v).seqstat = s.seqstat := rfl
@[simp] theorem State.setI_syscfg (s : State) (n : Quad) (v : Word) : (s.setI n v).syscfg = s.syscfg := rfl
@[simp] theorem State.setI_emudat (s : State) (n : Quad) (v : Word) : (s.setI n v).emudat = s.emudat := rfl
@[simp] theorem State.setI_evt (s : State) (n : Quad) (v : Word) : (s.setI n v).evt = s.evt := rfl
@[simp] theorem State.setI_imask (s : State) (n : Quad) (v : Word) : (s.setI n v).imask = s.imask := rfl
@[simp] theorem State.setI_ipend (s : State) (n : Quad) (v : Word) : (s.setI n v).ipend = s.ipend := rfl
@[simp] theorem State.setI_ilat (s : State) (n : Quad) (v : Word) : (s.setI n v).ilat = s.ilat := rfl
@[simp] theorem State.setI_iprio (s : State) (n : Quad) (v : Word) : (s.setI n v).iprio = s.iprio := rfl
@[simp] theorem State.setI_timer (s : State) (n : Quad) (v : Word) : (s.setI n v).timer = s.timer := rfl
@[simp] theorem State.setI_sys (s : State) (n : Quad) (v : Word) : (s.setI n v).sys = s.sys := rfl
@[simp] theorem State.setI_idle (s : State) (n : Quad) (v : Word) : (s.setI n v).idle = s.idle := rfl
@[simp] theorem State.setI_mem (s : State) (n : Quad) (v : Word) : (s.setI n v).mem = s.mem := rfl
@[simp] theorem State.setI_platform (s : State) (n : Quad) (v : Word) : (s.setI n v).platform = s.platform := rfl
@[simp] theorem State.setI_fetched (s : State) (n : Quad) (v : Word) : (s.setI n v).fetched = s.fetched := rfl
@[simp] theorem State.setI_stored (s : State) (n : Quad) (v : Word) : (s.setI n v).stored = s.stored := rfl
@[simp] theorem State.setI_arrivals (s : State) (n : Quad) (v : Word) : (s.setI n v).arrivals = s.arrivals := rfl
@[simp] theorem State.setI_draws (s : State) (n : Quad) (v : Word) : (s.setI n v).draws = s.draws := rfl

/-! ### An event vector -/

@[simp] theorem State.setEvt_evt (s : State) (k : Fin 16) (v : Word) : (s.setEvt k v).evt = s.evt.set k v := rfl
@[simp] theorem State.setEvt_r (s : State) (k : Fin 16) (v : Word) : (s.setEvt k v).r = s.r := rfl
@[simp] theorem State.setEvt_p (s : State) (k : Fin 16) (v : Word) : (s.setEvt k v).p = s.p := rfl
@[simp] theorem State.setEvt_spSup (s : State) (k : Fin 16) (v : Word) : (s.setEvt k v).spSup = s.spSup := rfl
@[simp] theorem State.setEvt_usp (s : State) (k : Fin 16) (v : Word) : (s.setEvt k v).usp = s.usp := rfl
@[simp] theorem State.setEvt_i (s : State) (k : Fin 16) (v : Word) : (s.setEvt k v).i = s.i := rfl
@[simp] theorem State.setEvt_m (s : State) (k : Fin 16) (v : Word) : (s.setEvt k v).m = s.m := rfl
@[simp] theorem State.setEvt_b (s : State) (k : Fin 16) (v : Word) : (s.setEvt k v).b = s.b := rfl
@[simp] theorem State.setEvt_l (s : State) (k : Fin 16) (v : Word) : (s.setEvt k v).l = s.l := rfl
@[simp] theorem State.setEvt_a0 (s : State) (k : Fin 16) (v : Word) : (s.setEvt k v).a0 = s.a0 := rfl
@[simp] theorem State.setEvt_a1 (s : State) (k : Fin 16) (v : Word) : (s.setEvt k v).a1 = s.a1 := rfl
@[simp] theorem State.setEvt_astat (s : State) (k : Fin 16) (v : Word) : (s.setEvt k v).astat = s.astat := rfl
@[simp] theorem State.setEvt_pc (s : State) (k : Fin 16) (v : Word) : (s.setEvt k v).pc = s.pc := rfl
@[simp] theorem State.setEvt_rets (s : State) (k : Fin 16) (v : Word) : (s.setEvt k v).rets = s.rets := rfl
@[simp] theorem State.setEvt_reti (s : State) (k : Fin 16) (v : Word) : (s.setEvt k v).reti = s.reti := rfl
@[simp] theorem State.setEvt_retx (s : State) (k : Fin 16) (v : Word) : (s.setEvt k v).retx = s.retx := rfl
@[simp] theorem State.setEvt_retn (s : State) (k : Fin 16) (v : Word) : (s.setEvt k v).retn = s.retn := rfl
@[simp] theorem State.setEvt_rete (s : State) (k : Fin 16) (v : Word) : (s.setEvt k v).rete = s.rete := rfl
@[simp] theorem State.setEvt_loop0 (s : State) (k : Fin 16) (v : Word) : (s.setEvt k v).loop0 = s.loop0 := rfl
@[simp] theorem State.setEvt_loop1 (s : State) (k : Fin 16) (v : Word) : (s.setEvt k v).loop1 = s.loop1 := rfl
@[simp] theorem State.setEvt_seqstat (s : State) (k : Fin 16) (v : Word) : (s.setEvt k v).seqstat = s.seqstat := rfl
@[simp] theorem State.setEvt_syscfg (s : State) (k : Fin 16) (v : Word) : (s.setEvt k v).syscfg = s.syscfg := rfl
@[simp] theorem State.setEvt_emudat (s : State) (k : Fin 16) (v : Word) : (s.setEvt k v).emudat = s.emudat := rfl
@[simp] theorem State.setEvt_imask (s : State) (k : Fin 16) (v : Word) : (s.setEvt k v).imask = s.imask := rfl
@[simp] theorem State.setEvt_ipend (s : State) (k : Fin 16) (v : Word) : (s.setEvt k v).ipend = s.ipend := rfl
@[simp] theorem State.setEvt_ilat (s : State) (k : Fin 16) (v : Word) : (s.setEvt k v).ilat = s.ilat := rfl
@[simp] theorem State.setEvt_iprio (s : State) (k : Fin 16) (v : Word) : (s.setEvt k v).iprio = s.iprio := rfl
@[simp] theorem State.setEvt_timer (s : State) (k : Fin 16) (v : Word) : (s.setEvt k v).timer = s.timer := rfl
@[simp] theorem State.setEvt_sys (s : State) (k : Fin 16) (v : Word) : (s.setEvt k v).sys = s.sys := rfl
@[simp] theorem State.setEvt_idle (s : State) (k : Fin 16) (v : Word) : (s.setEvt k v).idle = s.idle := rfl
@[simp] theorem State.setEvt_mem (s : State) (k : Fin 16) (v : Word) : (s.setEvt k v).mem = s.mem := rfl
@[simp] theorem State.setEvt_platform (s : State) (k : Fin 16) (v : Word) : (s.setEvt k v).platform = s.platform := rfl
@[simp] theorem State.setEvt_fetched (s : State) (k : Fin 16) (v : Word) : (s.setEvt k v).fetched = s.fetched := rfl
@[simp] theorem State.setEvt_stored (s : State) (k : Fin 16) (v : Word) : (s.setEvt k v).stored = s.stored := rfl
@[simp] theorem State.setEvt_arrivals (s : State) (k : Fin 16) (v : Word) : (s.setEvt k v).arrivals = s.arrivals := rfl
@[simp] theorem State.setEvt_draws (s : State) (k : Fin 16) (v : Word) : (s.setEvt k v).draws = s.draws := rfl

/-! ### A free value -/

@[simp] theorem State.draw_draws (s : State) : s.draw.2.draws = s.draws + 1 := rfl
@[simp] theorem State.draw_r (s : State) : (s.draw.2).r = s.r := rfl
@[simp] theorem State.draw_p (s : State) : (s.draw.2).p = s.p := rfl
@[simp] theorem State.draw_spSup (s : State) : (s.draw.2).spSup = s.spSup := rfl
@[simp] theorem State.draw_usp (s : State) : (s.draw.2).usp = s.usp := rfl
@[simp] theorem State.draw_i (s : State) : (s.draw.2).i = s.i := rfl
@[simp] theorem State.draw_m (s : State) : (s.draw.2).m = s.m := rfl
@[simp] theorem State.draw_b (s : State) : (s.draw.2).b = s.b := rfl
@[simp] theorem State.draw_l (s : State) : (s.draw.2).l = s.l := rfl
@[simp] theorem State.draw_a0 (s : State) : (s.draw.2).a0 = s.a0 := rfl
@[simp] theorem State.draw_a1 (s : State) : (s.draw.2).a1 = s.a1 := rfl
@[simp] theorem State.draw_astat (s : State) : (s.draw.2).astat = s.astat := rfl
@[simp] theorem State.draw_pc (s : State) : (s.draw.2).pc = s.pc := rfl
@[simp] theorem State.draw_rets (s : State) : (s.draw.2).rets = s.rets := rfl
@[simp] theorem State.draw_reti (s : State) : (s.draw.2).reti = s.reti := rfl
@[simp] theorem State.draw_retx (s : State) : (s.draw.2).retx = s.retx := rfl
@[simp] theorem State.draw_retn (s : State) : (s.draw.2).retn = s.retn := rfl
@[simp] theorem State.draw_rete (s : State) : (s.draw.2).rete = s.rete := rfl
@[simp] theorem State.draw_loop0 (s : State) : (s.draw.2).loop0 = s.loop0 := rfl
@[simp] theorem State.draw_loop1 (s : State) : (s.draw.2).loop1 = s.loop1 := rfl
@[simp] theorem State.draw_seqstat (s : State) : (s.draw.2).seqstat = s.seqstat := rfl
@[simp] theorem State.draw_syscfg (s : State) : (s.draw.2).syscfg = s.syscfg := rfl
@[simp] theorem State.draw_emudat (s : State) : (s.draw.2).emudat = s.emudat := rfl
@[simp] theorem State.draw_evt (s : State) : (s.draw.2).evt = s.evt := rfl
@[simp] theorem State.draw_imask (s : State) : (s.draw.2).imask = s.imask := rfl
@[simp] theorem State.draw_ipend (s : State) : (s.draw.2).ipend = s.ipend := rfl
@[simp] theorem State.draw_ilat (s : State) : (s.draw.2).ilat = s.ilat := rfl
@[simp] theorem State.draw_iprio (s : State) : (s.draw.2).iprio = s.iprio := rfl
@[simp] theorem State.draw_timer (s : State) : (s.draw.2).timer = s.timer := rfl
@[simp] theorem State.draw_sys (s : State) : (s.draw.2).sys = s.sys := rfl
@[simp] theorem State.draw_idle (s : State) : (s.draw.2).idle = s.idle := rfl
@[simp] theorem State.draw_mem (s : State) : (s.draw.2).mem = s.mem := rfl
@[simp] theorem State.draw_platform (s : State) : (s.draw.2).platform = s.platform := rfl
@[simp] theorem State.draw_fetched (s : State) : (s.draw.2).fetched = s.fetched := rfl
@[simp] theorem State.draw_stored (s : State) : (s.draw.2).stored = s.stored := rfl
@[simp] theorem State.draw_arrivals (s : State) : (s.draw.2).arrivals = s.arrivals := rfl

/-! ### The stack pointer and the pointer registers -/

@[simp] theorem State.setSp_r (s : State) (v : Word) : (s.setSp v).r = s.r := by unfold State.setSp; split <;> rfl
@[simp] theorem State.setSp_p (s : State) (v : Word) : (s.setSp v).p = s.p := by unfold State.setSp; split <;> rfl
@[simp] theorem State.setSp_i (s : State) (v : Word) : (s.setSp v).i = s.i := by unfold State.setSp; split <;> rfl
@[simp] theorem State.setSp_m (s : State) (v : Word) : (s.setSp v).m = s.m := by unfold State.setSp; split <;> rfl
@[simp] theorem State.setSp_b (s : State) (v : Word) : (s.setSp v).b = s.b := by unfold State.setSp; split <;> rfl
@[simp] theorem State.setSp_l (s : State) (v : Word) : (s.setSp v).l = s.l := by unfold State.setSp; split <;> rfl
@[simp] theorem State.setSp_a0 (s : State) (v : Word) : (s.setSp v).a0 = s.a0 := by unfold State.setSp; split <;> rfl
@[simp] theorem State.setSp_a1 (s : State) (v : Word) : (s.setSp v).a1 = s.a1 := by unfold State.setSp; split <;> rfl
@[simp] theorem State.setSp_astat (s : State) (v : Word) : (s.setSp v).astat = s.astat := by unfold State.setSp; split <;> rfl
@[simp] theorem State.setSp_pc (s : State) (v : Word) : (s.setSp v).pc = s.pc := by unfold State.setSp; split <;> rfl
@[simp] theorem State.setSp_rets (s : State) (v : Word) : (s.setSp v).rets = s.rets := by unfold State.setSp; split <;> rfl
@[simp] theorem State.setSp_reti (s : State) (v : Word) : (s.setSp v).reti = s.reti := by unfold State.setSp; split <;> rfl
@[simp] theorem State.setSp_retx (s : State) (v : Word) : (s.setSp v).retx = s.retx := by unfold State.setSp; split <;> rfl
@[simp] theorem State.setSp_retn (s : State) (v : Word) : (s.setSp v).retn = s.retn := by unfold State.setSp; split <;> rfl
@[simp] theorem State.setSp_rete (s : State) (v : Word) : (s.setSp v).rete = s.rete := by unfold State.setSp; split <;> rfl
@[simp] theorem State.setSp_loop0 (s : State) (v : Word) : (s.setSp v).loop0 = s.loop0 := by unfold State.setSp; split <;> rfl
@[simp] theorem State.setSp_loop1 (s : State) (v : Word) : (s.setSp v).loop1 = s.loop1 := by unfold State.setSp; split <;> rfl
@[simp] theorem State.setSp_seqstat (s : State) (v : Word) : (s.setSp v).seqstat = s.seqstat := by unfold State.setSp; split <;> rfl
@[simp] theorem State.setSp_syscfg (s : State) (v : Word) : (s.setSp v).syscfg = s.syscfg := by unfold State.setSp; split <;> rfl
@[simp] theorem State.setSp_emudat (s : State) (v : Word) : (s.setSp v).emudat = s.emudat := by unfold State.setSp; split <;> rfl
@[simp] theorem State.setSp_evt (s : State) (v : Word) : (s.setSp v).evt = s.evt := by unfold State.setSp; split <;> rfl
@[simp] theorem State.setSp_imask (s : State) (v : Word) : (s.setSp v).imask = s.imask := by unfold State.setSp; split <;> rfl
@[simp] theorem State.setSp_ipend (s : State) (v : Word) : (s.setSp v).ipend = s.ipend := by unfold State.setSp; split <;> rfl
@[simp] theorem State.setSp_ilat (s : State) (v : Word) : (s.setSp v).ilat = s.ilat := by unfold State.setSp; split <;> rfl
@[simp] theorem State.setSp_iprio (s : State) (v : Word) : (s.setSp v).iprio = s.iprio := by unfold State.setSp; split <;> rfl
@[simp] theorem State.setSp_timer (s : State) (v : Word) : (s.setSp v).timer = s.timer := by unfold State.setSp; split <;> rfl
@[simp] theorem State.setSp_sys (s : State) (v : Word) : (s.setSp v).sys = s.sys := by unfold State.setSp; split <;> rfl
@[simp] theorem State.setSp_idle (s : State) (v : Word) : (s.setSp v).idle = s.idle := by unfold State.setSp; split <;> rfl
@[simp] theorem State.setSp_mem (s : State) (v : Word) : (s.setSp v).mem = s.mem := by unfold State.setSp; split <;> rfl
@[simp] theorem State.setSp_platform (s : State) (v : Word) : (s.setSp v).platform = s.platform := by unfold State.setSp; split <;> rfl
@[simp] theorem State.setSp_fetched (s : State) (v : Word) : (s.setSp v).fetched = s.fetched := by unfold State.setSp; split <;> rfl
@[simp] theorem State.setSp_stored (s : State) (v : Word) : (s.setSp v).stored = s.stored := by unfold State.setSp; split <;> rfl
@[simp] theorem State.setSp_arrivals (s : State) (v : Word) : (s.setSp v).arrivals = s.arrivals := by unfold State.setSp; split <;> rfl
@[simp] theorem State.setSp_draws (s : State) (v : Word) : (s.setSp v).draws = s.draws := by unfold State.setSp; split <;> rfl

@[simp] theorem State.setP_r (s : State) (n : PReg) (v : Word) : (s.setP n v).r = s.r := by cases n <;> first | rfl | simp [State.setP]
@[simp] theorem State.setP_i (s : State) (n : PReg) (v : Word) : (s.setP n v).i = s.i := by cases n <;> first | rfl | simp [State.setP]
@[simp] theorem State.setP_m (s : State) (n : PReg) (v : Word) : (s.setP n v).m = s.m := by cases n <;> first | rfl | simp [State.setP]
@[simp] theorem State.setP_b (s : State) (n : PReg) (v : Word) : (s.setP n v).b = s.b := by cases n <;> first | rfl | simp [State.setP]
@[simp] theorem State.setP_l (s : State) (n : PReg) (v : Word) : (s.setP n v).l = s.l := by cases n <;> first | rfl | simp [State.setP]
@[simp] theorem State.setP_a0 (s : State) (n : PReg) (v : Word) : (s.setP n v).a0 = s.a0 := by cases n <;> first | rfl | simp [State.setP]
@[simp] theorem State.setP_a1 (s : State) (n : PReg) (v : Word) : (s.setP n v).a1 = s.a1 := by cases n <;> first | rfl | simp [State.setP]
@[simp] theorem State.setP_astat (s : State) (n : PReg) (v : Word) : (s.setP n v).astat = s.astat := by cases n <;> first | rfl | simp [State.setP]
@[simp] theorem State.setP_pc (s : State) (n : PReg) (v : Word) : (s.setP n v).pc = s.pc := by cases n <;> first | rfl | simp [State.setP]
@[simp] theorem State.setP_rets (s : State) (n : PReg) (v : Word) : (s.setP n v).rets = s.rets := by cases n <;> first | rfl | simp [State.setP]
@[simp] theorem State.setP_reti (s : State) (n : PReg) (v : Word) : (s.setP n v).reti = s.reti := by cases n <;> first | rfl | simp [State.setP]
@[simp] theorem State.setP_retx (s : State) (n : PReg) (v : Word) : (s.setP n v).retx = s.retx := by cases n <;> first | rfl | simp [State.setP]
@[simp] theorem State.setP_retn (s : State) (n : PReg) (v : Word) : (s.setP n v).retn = s.retn := by cases n <;> first | rfl | simp [State.setP]
@[simp] theorem State.setP_rete (s : State) (n : PReg) (v : Word) : (s.setP n v).rete = s.rete := by cases n <;> first | rfl | simp [State.setP]
@[simp] theorem State.setP_loop0 (s : State) (n : PReg) (v : Word) : (s.setP n v).loop0 = s.loop0 := by cases n <;> first | rfl | simp [State.setP]
@[simp] theorem State.setP_loop1 (s : State) (n : PReg) (v : Word) : (s.setP n v).loop1 = s.loop1 := by cases n <;> first | rfl | simp [State.setP]
@[simp] theorem State.setP_seqstat (s : State) (n : PReg) (v : Word) : (s.setP n v).seqstat = s.seqstat := by cases n <;> first | rfl | simp [State.setP]
@[simp] theorem State.setP_syscfg (s : State) (n : PReg) (v : Word) : (s.setP n v).syscfg = s.syscfg := by cases n <;> first | rfl | simp [State.setP]
@[simp] theorem State.setP_emudat (s : State) (n : PReg) (v : Word) : (s.setP n v).emudat = s.emudat := by cases n <;> first | rfl | simp [State.setP]
@[simp] theorem State.setP_evt (s : State) (n : PReg) (v : Word) : (s.setP n v).evt = s.evt := by cases n <;> first | rfl | simp [State.setP]
@[simp] theorem State.setP_imask (s : State) (n : PReg) (v : Word) : (s.setP n v).imask = s.imask := by cases n <;> first | rfl | simp [State.setP]
@[simp] theorem State.setP_ipend (s : State) (n : PReg) (v : Word) : (s.setP n v).ipend = s.ipend := by cases n <;> first | rfl | simp [State.setP]
@[simp] theorem State.setP_ilat (s : State) (n : PReg) (v : Word) : (s.setP n v).ilat = s.ilat := by cases n <;> first | rfl | simp [State.setP]
@[simp] theorem State.setP_iprio (s : State) (n : PReg) (v : Word) : (s.setP n v).iprio = s.iprio := by cases n <;> first | rfl | simp [State.setP]
@[simp] theorem State.setP_timer (s : State) (n : PReg) (v : Word) : (s.setP n v).timer = s.timer := by cases n <;> first | rfl | simp [State.setP]
@[simp] theorem State.setP_sys (s : State) (n : PReg) (v : Word) : (s.setP n v).sys = s.sys := by cases n <;> first | rfl | simp [State.setP]
@[simp] theorem State.setP_idle (s : State) (n : PReg) (v : Word) : (s.setP n v).idle = s.idle := by cases n <;> first | rfl | simp [State.setP]
@[simp] theorem State.setP_mem (s : State) (n : PReg) (v : Word) : (s.setP n v).mem = s.mem := by cases n <;> first | rfl | simp [State.setP]
@[simp] theorem State.setP_platform (s : State) (n : PReg) (v : Word) : (s.setP n v).platform = s.platform := by cases n <;> first | rfl | simp [State.setP]
@[simp] theorem State.setP_fetched (s : State) (n : PReg) (v : Word) : (s.setP n v).fetched = s.fetched := by cases n <;> first | rfl | simp [State.setP]
@[simp] theorem State.setP_stored (s : State) (n : PReg) (v : Word) : (s.setP n v).stored = s.stored := by cases n <;> first | rfl | simp [State.setP]
@[simp] theorem State.setP_arrivals (s : State) (n : PReg) (v : Word) : (s.setP n v).arrivals = s.arrivals := by cases n <;> first | rfl | simp [State.setP]
@[simp] theorem State.setP_draws (s : State) (n : PReg) (v : Word) : (s.setP n v).draws = s.draws := by cases n <;> first | rfl | simp [State.setP]

/-! ### A data or pointer register, and a register of groups 0 to 3 -/

@[simp] theorem State.setDP_i (s : State) (n : DPReg) (v : Word) : (s.setDP n v).i = s.i := by cases n <;> simp [State.setDP]
@[simp] theorem State.setDP_m (s : State) (n : DPReg) (v : Word) : (s.setDP n v).m = s.m := by cases n <;> simp [State.setDP]
@[simp] theorem State.setDP_b (s : State) (n : DPReg) (v : Word) : (s.setDP n v).b = s.b := by cases n <;> simp [State.setDP]
@[simp] theorem State.setDP_l (s : State) (n : DPReg) (v : Word) : (s.setDP n v).l = s.l := by cases n <;> simp [State.setDP]
@[simp] theorem State.setDP_a0 (s : State) (n : DPReg) (v : Word) : (s.setDP n v).a0 = s.a0 := by cases n <;> simp [State.setDP]
@[simp] theorem State.setDP_a1 (s : State) (n : DPReg) (v : Word) : (s.setDP n v).a1 = s.a1 := by cases n <;> simp [State.setDP]
@[simp] theorem State.setDP_astat (s : State) (n : DPReg) (v : Word) : (s.setDP n v).astat = s.astat := by cases n <;> simp [State.setDP]
@[simp] theorem State.setDP_pc (s : State) (n : DPReg) (v : Word) : (s.setDP n v).pc = s.pc := by cases n <;> simp [State.setDP]
@[simp] theorem State.setDP_rets (s : State) (n : DPReg) (v : Word) : (s.setDP n v).rets = s.rets := by cases n <;> simp [State.setDP]
@[simp] theorem State.setDP_reti (s : State) (n : DPReg) (v : Word) : (s.setDP n v).reti = s.reti := by cases n <;> simp [State.setDP]
@[simp] theorem State.setDP_retx (s : State) (n : DPReg) (v : Word) : (s.setDP n v).retx = s.retx := by cases n <;> simp [State.setDP]
@[simp] theorem State.setDP_retn (s : State) (n : DPReg) (v : Word) : (s.setDP n v).retn = s.retn := by cases n <;> simp [State.setDP]
@[simp] theorem State.setDP_rete (s : State) (n : DPReg) (v : Word) : (s.setDP n v).rete = s.rete := by cases n <;> simp [State.setDP]
@[simp] theorem State.setDP_loop0 (s : State) (n : DPReg) (v : Word) : (s.setDP n v).loop0 = s.loop0 := by cases n <;> simp [State.setDP]
@[simp] theorem State.setDP_loop1 (s : State) (n : DPReg) (v : Word) : (s.setDP n v).loop1 = s.loop1 := by cases n <;> simp [State.setDP]
@[simp] theorem State.setDP_seqstat (s : State) (n : DPReg) (v : Word) : (s.setDP n v).seqstat = s.seqstat := by cases n <;> simp [State.setDP]
@[simp] theorem State.setDP_syscfg (s : State) (n : DPReg) (v : Word) : (s.setDP n v).syscfg = s.syscfg := by cases n <;> simp [State.setDP]
@[simp] theorem State.setDP_emudat (s : State) (n : DPReg) (v : Word) : (s.setDP n v).emudat = s.emudat := by cases n <;> simp [State.setDP]
@[simp] theorem State.setDP_evt (s : State) (n : DPReg) (v : Word) : (s.setDP n v).evt = s.evt := by cases n <;> simp [State.setDP]
@[simp] theorem State.setDP_imask (s : State) (n : DPReg) (v : Word) : (s.setDP n v).imask = s.imask := by cases n <;> simp [State.setDP]
@[simp] theorem State.setDP_ipend (s : State) (n : DPReg) (v : Word) : (s.setDP n v).ipend = s.ipend := by cases n <;> simp [State.setDP]
@[simp] theorem State.setDP_ilat (s : State) (n : DPReg) (v : Word) : (s.setDP n v).ilat = s.ilat := by cases n <;> simp [State.setDP]
@[simp] theorem State.setDP_iprio (s : State) (n : DPReg) (v : Word) : (s.setDP n v).iprio = s.iprio := by cases n <;> simp [State.setDP]
@[simp] theorem State.setDP_timer (s : State) (n : DPReg) (v : Word) : (s.setDP n v).timer = s.timer := by cases n <;> simp [State.setDP]
@[simp] theorem State.setDP_sys (s : State) (n : DPReg) (v : Word) : (s.setDP n v).sys = s.sys := by cases n <;> simp [State.setDP]
@[simp] theorem State.setDP_idle (s : State) (n : DPReg) (v : Word) : (s.setDP n v).idle = s.idle := by cases n <;> simp [State.setDP]
@[simp] theorem State.setDP_mem (s : State) (n : DPReg) (v : Word) : (s.setDP n v).mem = s.mem := by cases n <;> simp [State.setDP]
@[simp] theorem State.setDP_platform (s : State) (n : DPReg) (v : Word) : (s.setDP n v).platform = s.platform := by cases n <;> simp [State.setDP]
@[simp] theorem State.setDP_fetched (s : State) (n : DPReg) (v : Word) : (s.setDP n v).fetched = s.fetched := by cases n <;> simp [State.setDP]
@[simp] theorem State.setDP_stored (s : State) (n : DPReg) (v : Word) : (s.setDP n v).stored = s.stored := by cases n <;> simp [State.setDP]
@[simp] theorem State.setDP_arrivals (s : State) (n : DPReg) (v : Word) : (s.setDP n v).arrivals = s.arrivals := by cases n <;> simp [State.setDP]
@[simp] theorem State.setDP_draws (s : State) (n : DPReg) (v : Word) : (s.setDP n v).draws = s.draws := by cases n <;> simp [State.setDP]

@[simp] theorem State.setGen_a0 (s : State) (g : GenReg) (v : Word) : (s.setGen g v).a0 = s.a0 := by cases g <;> simp [State.setGen]
@[simp] theorem State.setGen_a1 (s : State) (g : GenReg) (v : Word) : (s.setGen g v).a1 = s.a1 := by cases g <;> simp [State.setGen]
@[simp] theorem State.setGen_astat (s : State) (g : GenReg) (v : Word) : (s.setGen g v).astat = s.astat := by cases g <;> simp [State.setGen]
@[simp] theorem State.setGen_pc (s : State) (g : GenReg) (v : Word) : (s.setGen g v).pc = s.pc := by cases g <;> simp [State.setGen]
@[simp] theorem State.setGen_rets (s : State) (g : GenReg) (v : Word) : (s.setGen g v).rets = s.rets := by cases g <;> simp [State.setGen]
@[simp] theorem State.setGen_reti (s : State) (g : GenReg) (v : Word) : (s.setGen g v).reti = s.reti := by cases g <;> simp [State.setGen]
@[simp] theorem State.setGen_retx (s : State) (g : GenReg) (v : Word) : (s.setGen g v).retx = s.retx := by cases g <;> simp [State.setGen]
@[simp] theorem State.setGen_retn (s : State) (g : GenReg) (v : Word) : (s.setGen g v).retn = s.retn := by cases g <;> simp [State.setGen]
@[simp] theorem State.setGen_rete (s : State) (g : GenReg) (v : Word) : (s.setGen g v).rete = s.rete := by cases g <;> simp [State.setGen]
@[simp] theorem State.setGen_loop0 (s : State) (g : GenReg) (v : Word) : (s.setGen g v).loop0 = s.loop0 := by cases g <;> simp [State.setGen]
@[simp] theorem State.setGen_loop1 (s : State) (g : GenReg) (v : Word) : (s.setGen g v).loop1 = s.loop1 := by cases g <;> simp [State.setGen]
@[simp] theorem State.setGen_seqstat (s : State) (g : GenReg) (v : Word) : (s.setGen g v).seqstat = s.seqstat := by cases g <;> simp [State.setGen]
@[simp] theorem State.setGen_syscfg (s : State) (g : GenReg) (v : Word) : (s.setGen g v).syscfg = s.syscfg := by cases g <;> simp [State.setGen]
@[simp] theorem State.setGen_emudat (s : State) (g : GenReg) (v : Word) : (s.setGen g v).emudat = s.emudat := by cases g <;> simp [State.setGen]
@[simp] theorem State.setGen_evt (s : State) (g : GenReg) (v : Word) : (s.setGen g v).evt = s.evt := by cases g <;> simp [State.setGen]
@[simp] theorem State.setGen_imask (s : State) (g : GenReg) (v : Word) : (s.setGen g v).imask = s.imask := by cases g <;> simp [State.setGen]
@[simp] theorem State.setGen_ipend (s : State) (g : GenReg) (v : Word) : (s.setGen g v).ipend = s.ipend := by cases g <;> simp [State.setGen]
@[simp] theorem State.setGen_ilat (s : State) (g : GenReg) (v : Word) : (s.setGen g v).ilat = s.ilat := by cases g <;> simp [State.setGen]
@[simp] theorem State.setGen_iprio (s : State) (g : GenReg) (v : Word) : (s.setGen g v).iprio = s.iprio := by cases g <;> simp [State.setGen]
@[simp] theorem State.setGen_timer (s : State) (g : GenReg) (v : Word) : (s.setGen g v).timer = s.timer := by cases g <;> simp [State.setGen]
@[simp] theorem State.setGen_sys (s : State) (g : GenReg) (v : Word) : (s.setGen g v).sys = s.sys := by cases g <;> simp [State.setGen]
@[simp] theorem State.setGen_idle (s : State) (g : GenReg) (v : Word) : (s.setGen g v).idle = s.idle := by cases g <;> simp [State.setGen]
@[simp] theorem State.setGen_mem (s : State) (g : GenReg) (v : Word) : (s.setGen g v).mem = s.mem := by cases g <;> simp [State.setGen]
@[simp] theorem State.setGen_platform (s : State) (g : GenReg) (v : Word) : (s.setGen g v).platform = s.platform := by cases g <;> simp [State.setGen]
@[simp] theorem State.setGen_fetched (s : State) (g : GenReg) (v : Word) : (s.setGen g v).fetched = s.fetched := by cases g <;> simp [State.setGen]
@[simp] theorem State.setGen_stored (s : State) (g : GenReg) (v : Word) : (s.setGen g v).stored = s.stored := by cases g <;> simp [State.setGen]
@[simp] theorem State.setGen_arrivals (s : State) (g : GenReg) (v : Word) : (s.setGen g v).arrivals = s.arrivals := by cases g <;> simp [State.setGen]
@[simp] theorem State.setGen_draws (s : State) (g : GenReg) (v : Word) : (s.setGen g v).draws = s.draws := by cases g <;> simp [State.setGen]

/-! ### The registers of a loop -/

@[simp] theorem State.setLoop_r (s : State) (k : LoopNo) (v : LoopRegs) : (s.setLoop k v).r = s.r := by cases k <;> rfl
@[simp] theorem State.setLoop_p (s : State) (k : LoopNo) (v : LoopRegs) : (s.setLoop k v).p = s.p := by cases k <;> rfl
@[simp] theorem State.setLoop_spSup (s : State) (k : LoopNo) (v : LoopRegs) : (s.setLoop k v).spSup = s.spSup := by cases k <;> rfl
@[simp] theorem State.setLoop_usp (s : State) (k : LoopNo) (v : LoopRegs) : (s.setLoop k v).usp = s.usp := by cases k <;> rfl
@[simp] theorem State.setLoop_i (s : State) (k : LoopNo) (v : LoopRegs) : (s.setLoop k v).i = s.i := by cases k <;> rfl
@[simp] theorem State.setLoop_m (s : State) (k : LoopNo) (v : LoopRegs) : (s.setLoop k v).m = s.m := by cases k <;> rfl
@[simp] theorem State.setLoop_b (s : State) (k : LoopNo) (v : LoopRegs) : (s.setLoop k v).b = s.b := by cases k <;> rfl
@[simp] theorem State.setLoop_l (s : State) (k : LoopNo) (v : LoopRegs) : (s.setLoop k v).l = s.l := by cases k <;> rfl
@[simp] theorem State.setLoop_a0 (s : State) (k : LoopNo) (v : LoopRegs) : (s.setLoop k v).a0 = s.a0 := by cases k <;> rfl
@[simp] theorem State.setLoop_a1 (s : State) (k : LoopNo) (v : LoopRegs) : (s.setLoop k v).a1 = s.a1 := by cases k <;> rfl
@[simp] theorem State.setLoop_astat (s : State) (k : LoopNo) (v : LoopRegs) : (s.setLoop k v).astat = s.astat := by cases k <;> rfl
@[simp] theorem State.setLoop_pc (s : State) (k : LoopNo) (v : LoopRegs) : (s.setLoop k v).pc = s.pc := by cases k <;> rfl
@[simp] theorem State.setLoop_rets (s : State) (k : LoopNo) (v : LoopRegs) : (s.setLoop k v).rets = s.rets := by cases k <;> rfl
@[simp] theorem State.setLoop_reti (s : State) (k : LoopNo) (v : LoopRegs) : (s.setLoop k v).reti = s.reti := by cases k <;> rfl
@[simp] theorem State.setLoop_retx (s : State) (k : LoopNo) (v : LoopRegs) : (s.setLoop k v).retx = s.retx := by cases k <;> rfl
@[simp] theorem State.setLoop_retn (s : State) (k : LoopNo) (v : LoopRegs) : (s.setLoop k v).retn = s.retn := by cases k <;> rfl
@[simp] theorem State.setLoop_rete (s : State) (k : LoopNo) (v : LoopRegs) : (s.setLoop k v).rete = s.rete := by cases k <;> rfl
@[simp] theorem State.setLoop_seqstat (s : State) (k : LoopNo) (v : LoopRegs) : (s.setLoop k v).seqstat = s.seqstat := by cases k <;> rfl
@[simp] theorem State.setLoop_syscfg (s : State) (k : LoopNo) (v : LoopRegs) : (s.setLoop k v).syscfg = s.syscfg := by cases k <;> rfl
@[simp] theorem State.setLoop_emudat (s : State) (k : LoopNo) (v : LoopRegs) : (s.setLoop k v).emudat = s.emudat := by cases k <;> rfl
@[simp] theorem State.setLoop_evt (s : State) (k : LoopNo) (v : LoopRegs) : (s.setLoop k v).evt = s.evt := by cases k <;> rfl
@[simp] theorem State.setLoop_imask (s : State) (k : LoopNo) (v : LoopRegs) : (s.setLoop k v).imask = s.imask := by cases k <;> rfl
@[simp] theorem State.setLoop_ipend (s : State) (k : LoopNo) (v : LoopRegs) : (s.setLoop k v).ipend = s.ipend := by cases k <;> rfl
@[simp] theorem State.setLoop_ilat (s : State) (k : LoopNo) (v : LoopRegs) : (s.setLoop k v).ilat = s.ilat := by cases k <;> rfl
@[simp] theorem State.setLoop_iprio (s : State) (k : LoopNo) (v : LoopRegs) : (s.setLoop k v).iprio = s.iprio := by cases k <;> rfl
@[simp] theorem State.setLoop_timer (s : State) (k : LoopNo) (v : LoopRegs) : (s.setLoop k v).timer = s.timer := by cases k <;> rfl
@[simp] theorem State.setLoop_sys (s : State) (k : LoopNo) (v : LoopRegs) : (s.setLoop k v).sys = s.sys := by cases k <;> rfl
@[simp] theorem State.setLoop_idle (s : State) (k : LoopNo) (v : LoopRegs) : (s.setLoop k v).idle = s.idle := by cases k <;> rfl
@[simp] theorem State.setLoop_mem (s : State) (k : LoopNo) (v : LoopRegs) : (s.setLoop k v).mem = s.mem := by cases k <;> rfl
@[simp] theorem State.setLoop_platform (s : State) (k : LoopNo) (v : LoopRegs) : (s.setLoop k v).platform = s.platform := by cases k <;> rfl
@[simp] theorem State.setLoop_fetched (s : State) (k : LoopNo) (v : LoopRegs) : (s.setLoop k v).fetched = s.fetched := by cases k <;> rfl
@[simp] theorem State.setLoop_stored (s : State) (k : LoopNo) (v : LoopRegs) : (s.setLoop k v).stored = s.stored := by cases k <;> rfl
@[simp] theorem State.setLoop_arrivals (s : State) (k : LoopNo) (v : LoopRegs) : (s.setLoop k v).arrivals = s.arrivals := by cases k <;> rfl
@[simp] theorem State.setLoop_draws (s : State) (k : LoopNo) (v : LoopRegs) : (s.setLoop k v).draws = s.draws := by cases k <;> rfl

/-! ### A store of bytes -/

@[simp] theorem State.putBytes_r (s : State) (a : Nat) (z : Size) (v : Word) : (s.putBytes a z v).r = s.r := rfl
@[simp] theorem State.putBytes_p (s : State) (a : Nat) (z : Size) (v : Word) : (s.putBytes a z v).p = s.p := rfl
@[simp] theorem State.putBytes_spSup (s : State) (a : Nat) (z : Size) (v : Word) : (s.putBytes a z v).spSup = s.spSup := rfl
@[simp] theorem State.putBytes_usp (s : State) (a : Nat) (z : Size) (v : Word) : (s.putBytes a z v).usp = s.usp := rfl
@[simp] theorem State.putBytes_i (s : State) (a : Nat) (z : Size) (v : Word) : (s.putBytes a z v).i = s.i := rfl
@[simp] theorem State.putBytes_m (s : State) (a : Nat) (z : Size) (v : Word) : (s.putBytes a z v).m = s.m := rfl
@[simp] theorem State.putBytes_b (s : State) (a : Nat) (z : Size) (v : Word) : (s.putBytes a z v).b = s.b := rfl
@[simp] theorem State.putBytes_l (s : State) (a : Nat) (z : Size) (v : Word) : (s.putBytes a z v).l = s.l := rfl
@[simp] theorem State.putBytes_a0 (s : State) (a : Nat) (z : Size) (v : Word) : (s.putBytes a z v).a0 = s.a0 := rfl
@[simp] theorem State.putBytes_a1 (s : State) (a : Nat) (z : Size) (v : Word) : (s.putBytes a z v).a1 = s.a1 := rfl
@[simp] theorem State.putBytes_astat (s : State) (a : Nat) (z : Size) (v : Word) : (s.putBytes a z v).astat = s.astat := rfl
@[simp] theorem State.putBytes_pc (s : State) (a : Nat) (z : Size) (v : Word) : (s.putBytes a z v).pc = s.pc := rfl
@[simp] theorem State.putBytes_rets (s : State) (a : Nat) (z : Size) (v : Word) : (s.putBytes a z v).rets = s.rets := rfl
@[simp] theorem State.putBytes_reti (s : State) (a : Nat) (z : Size) (v : Word) : (s.putBytes a z v).reti = s.reti := rfl
@[simp] theorem State.putBytes_retx (s : State) (a : Nat) (z : Size) (v : Word) : (s.putBytes a z v).retx = s.retx := rfl
@[simp] theorem State.putBytes_retn (s : State) (a : Nat) (z : Size) (v : Word) : (s.putBytes a z v).retn = s.retn := rfl
@[simp] theorem State.putBytes_rete (s : State) (a : Nat) (z : Size) (v : Word) : (s.putBytes a z v).rete = s.rete := rfl
@[simp] theorem State.putBytes_loop0 (s : State) (a : Nat) (z : Size) (v : Word) : (s.putBytes a z v).loop0 = s.loop0 := rfl
@[simp] theorem State.putBytes_loop1 (s : State) (a : Nat) (z : Size) (v : Word) : (s.putBytes a z v).loop1 = s.loop1 := rfl
@[simp] theorem State.putBytes_seqstat (s : State) (a : Nat) (z : Size) (v : Word) : (s.putBytes a z v).seqstat = s.seqstat := rfl
@[simp] theorem State.putBytes_syscfg (s : State) (a : Nat) (z : Size) (v : Word) : (s.putBytes a z v).syscfg = s.syscfg := rfl
@[simp] theorem State.putBytes_emudat (s : State) (a : Nat) (z : Size) (v : Word) : (s.putBytes a z v).emudat = s.emudat := rfl
@[simp] theorem State.putBytes_evt (s : State) (a : Nat) (z : Size) (v : Word) : (s.putBytes a z v).evt = s.evt := rfl
@[simp] theorem State.putBytes_imask (s : State) (a : Nat) (z : Size) (v : Word) : (s.putBytes a z v).imask = s.imask := rfl
@[simp] theorem State.putBytes_ipend (s : State) (a : Nat) (z : Size) (v : Word) : (s.putBytes a z v).ipend = s.ipend := rfl
@[simp] theorem State.putBytes_ilat (s : State) (a : Nat) (z : Size) (v : Word) : (s.putBytes a z v).ilat = s.ilat := rfl
@[simp] theorem State.putBytes_iprio (s : State) (a : Nat) (z : Size) (v : Word) : (s.putBytes a z v).iprio = s.iprio := rfl
@[simp] theorem State.putBytes_timer (s : State) (a : Nat) (z : Size) (v : Word) : (s.putBytes a z v).timer = s.timer := rfl
@[simp] theorem State.putBytes_sys (s : State) (a : Nat) (z : Size) (v : Word) : (s.putBytes a z v).sys = s.sys := rfl
@[simp] theorem State.putBytes_idle (s : State) (a : Nat) (z : Size) (v : Word) : (s.putBytes a z v).idle = s.idle := rfl
@[simp] theorem State.putBytes_platform (s : State) (a : Nat) (z : Size) (v : Word) : (s.putBytes a z v).platform = s.platform := rfl
@[simp] theorem State.putBytes_fetched (s : State) (a : Nat) (z : Size) (v : Word) : (s.putBytes a z v).fetched = s.fetched := rfl
@[simp] theorem State.putBytes_arrivals (s : State) (a : Nat) (z : Size) (v : Word) : (s.putBytes a z v).arrivals = s.arrivals := rfl
@[simp] theorem State.putBytes_draws (s : State) (a : Nat) (z : Size) (v : Word) : (s.putBytes a z v).draws = s.draws := rfl

/-! ### A fetch -/

@[simp] theorem State.noteFetch_r (s : State) (n : Nat) : (s.noteFetch n).r = s.r := rfl
@[simp] theorem State.noteFetch_p (s : State) (n : Nat) : (s.noteFetch n).p = s.p := rfl
@[simp] theorem State.noteFetch_spSup (s : State) (n : Nat) : (s.noteFetch n).spSup = s.spSup := rfl
@[simp] theorem State.noteFetch_usp (s : State) (n : Nat) : (s.noteFetch n).usp = s.usp := rfl
@[simp] theorem State.noteFetch_i (s : State) (n : Nat) : (s.noteFetch n).i = s.i := rfl
@[simp] theorem State.noteFetch_m (s : State) (n : Nat) : (s.noteFetch n).m = s.m := rfl
@[simp] theorem State.noteFetch_b (s : State) (n : Nat) : (s.noteFetch n).b = s.b := rfl
@[simp] theorem State.noteFetch_l (s : State) (n : Nat) : (s.noteFetch n).l = s.l := rfl
@[simp] theorem State.noteFetch_a0 (s : State) (n : Nat) : (s.noteFetch n).a0 = s.a0 := rfl
@[simp] theorem State.noteFetch_a1 (s : State) (n : Nat) : (s.noteFetch n).a1 = s.a1 := rfl
@[simp] theorem State.noteFetch_astat (s : State) (n : Nat) : (s.noteFetch n).astat = s.astat := rfl
@[simp] theorem State.noteFetch_pc (s : State) (n : Nat) : (s.noteFetch n).pc = s.pc := rfl
@[simp] theorem State.noteFetch_rets (s : State) (n : Nat) : (s.noteFetch n).rets = s.rets := rfl
@[simp] theorem State.noteFetch_reti (s : State) (n : Nat) : (s.noteFetch n).reti = s.reti := rfl
@[simp] theorem State.noteFetch_retx (s : State) (n : Nat) : (s.noteFetch n).retx = s.retx := rfl
@[simp] theorem State.noteFetch_retn (s : State) (n : Nat) : (s.noteFetch n).retn = s.retn := rfl
@[simp] theorem State.noteFetch_rete (s : State) (n : Nat) : (s.noteFetch n).rete = s.rete := rfl
@[simp] theorem State.noteFetch_loop0 (s : State) (n : Nat) : (s.noteFetch n).loop0 = s.loop0 := rfl
@[simp] theorem State.noteFetch_loop1 (s : State) (n : Nat) : (s.noteFetch n).loop1 = s.loop1 := rfl
@[simp] theorem State.noteFetch_seqstat (s : State) (n : Nat) : (s.noteFetch n).seqstat = s.seqstat := rfl
@[simp] theorem State.noteFetch_syscfg (s : State) (n : Nat) : (s.noteFetch n).syscfg = s.syscfg := rfl
@[simp] theorem State.noteFetch_emudat (s : State) (n : Nat) : (s.noteFetch n).emudat = s.emudat := rfl
@[simp] theorem State.noteFetch_evt (s : State) (n : Nat) : (s.noteFetch n).evt = s.evt := rfl
@[simp] theorem State.noteFetch_imask (s : State) (n : Nat) : (s.noteFetch n).imask = s.imask := rfl
@[simp] theorem State.noteFetch_ipend (s : State) (n : Nat) : (s.noteFetch n).ipend = s.ipend := rfl
@[simp] theorem State.noteFetch_ilat (s : State) (n : Nat) : (s.noteFetch n).ilat = s.ilat := rfl
@[simp] theorem State.noteFetch_iprio (s : State) (n : Nat) : (s.noteFetch n).iprio = s.iprio := rfl
@[simp] theorem State.noteFetch_timer (s : State) (n : Nat) : (s.noteFetch n).timer = s.timer := rfl
@[simp] theorem State.noteFetch_sys (s : State) (n : Nat) : (s.noteFetch n).sys = s.sys := rfl
@[simp] theorem State.noteFetch_idle (s : State) (n : Nat) : (s.noteFetch n).idle = s.idle := rfl
@[simp] theorem State.noteFetch_mem (s : State) (n : Nat) : (s.noteFetch n).mem = s.mem := rfl
@[simp] theorem State.noteFetch_platform (s : State) (n : Nat) : (s.noteFetch n).platform = s.platform := rfl
@[simp] theorem State.noteFetch_stored (s : State) (n : Nat) : (s.noteFetch n).stored = s.stored := rfl
@[simp] theorem State.noteFetch_arrivals (s : State) (n : Nat) : (s.noteFetch n).arrivals = s.arrivals := rfl
@[simp] theorem State.noteFetch_draws (s : State) (n : Nat) : (s.noteFetch n).draws = s.draws := rfl

/-! ### Event entry -/

@[simp] theorem State.enterEvent_r (s : State) (k : Fin 16) (ra : Word) : (s.enterEvent k ra).r = s.r := rfl
@[simp] theorem State.enterEvent_p (s : State) (k : Fin 16) (ra : Word) : (s.enterEvent k ra).p = s.p := rfl
@[simp] theorem State.enterEvent_spSup (s : State) (k : Fin 16) (ra : Word) : (s.enterEvent k ra).spSup = s.spSup := rfl
@[simp] theorem State.enterEvent_usp (s : State) (k : Fin 16) (ra : Word) : (s.enterEvent k ra).usp = s.usp := rfl
@[simp] theorem State.enterEvent_i (s : State) (k : Fin 16) (ra : Word) : (s.enterEvent k ra).i = s.i := rfl
@[simp] theorem State.enterEvent_m (s : State) (k : Fin 16) (ra : Word) : (s.enterEvent k ra).m = s.m := rfl
@[simp] theorem State.enterEvent_b (s : State) (k : Fin 16) (ra : Word) : (s.enterEvent k ra).b = s.b := rfl
@[simp] theorem State.enterEvent_l (s : State) (k : Fin 16) (ra : Word) : (s.enterEvent k ra).l = s.l := rfl
@[simp] theorem State.enterEvent_a0 (s : State) (k : Fin 16) (ra : Word) : (s.enterEvent k ra).a0 = s.a0 := rfl
@[simp] theorem State.enterEvent_a1 (s : State) (k : Fin 16) (ra : Word) : (s.enterEvent k ra).a1 = s.a1 := rfl
@[simp] theorem State.enterEvent_astat (s : State) (k : Fin 16) (ra : Word) : (s.enterEvent k ra).astat = s.astat := rfl
@[simp] theorem State.enterEvent_rets (s : State) (k : Fin 16) (ra : Word) : (s.enterEvent k ra).rets = s.rets := rfl
@[simp] theorem State.enterEvent_rete (s : State) (k : Fin 16) (ra : Word) : (s.enterEvent k ra).rete = s.rete := rfl
@[simp] theorem State.enterEvent_loop0 (s : State) (k : Fin 16) (ra : Word) : (s.enterEvent k ra).loop0 = s.loop0 := rfl
@[simp] theorem State.enterEvent_loop1 (s : State) (k : Fin 16) (ra : Word) : (s.enterEvent k ra).loop1 = s.loop1 := rfl
@[simp] theorem State.enterEvent_seqstat (s : State) (k : Fin 16) (ra : Word) : (s.enterEvent k ra).seqstat = s.seqstat := rfl
@[simp] theorem State.enterEvent_syscfg (s : State) (k : Fin 16) (ra : Word) : (s.enterEvent k ra).syscfg = s.syscfg := rfl
@[simp] theorem State.enterEvent_emudat (s : State) (k : Fin 16) (ra : Word) : (s.enterEvent k ra).emudat = s.emudat := rfl
@[simp] theorem State.enterEvent_evt (s : State) (k : Fin 16) (ra : Word) : (s.enterEvent k ra).evt = s.evt := rfl
@[simp] theorem State.enterEvent_imask (s : State) (k : Fin 16) (ra : Word) : (s.enterEvent k ra).imask = s.imask := rfl
@[simp] theorem State.enterEvent_iprio (s : State) (k : Fin 16) (ra : Word) : (s.enterEvent k ra).iprio = s.iprio := rfl
@[simp] theorem State.enterEvent_timer (s : State) (k : Fin 16) (ra : Word) : (s.enterEvent k ra).timer = s.timer := rfl
@[simp] theorem State.enterEvent_sys (s : State) (k : Fin 16) (ra : Word) : (s.enterEvent k ra).sys = s.sys := rfl
@[simp] theorem State.enterEvent_mem (s : State) (k : Fin 16) (ra : Word) : (s.enterEvent k ra).mem = s.mem := rfl
@[simp] theorem State.enterEvent_platform (s : State) (k : Fin 16) (ra : Word) : (s.enterEvent k ra).platform = s.platform := rfl
@[simp] theorem State.enterEvent_fetched (s : State) (k : Fin 16) (ra : Word) : (s.enterEvent k ra).fetched = s.fetched := rfl
@[simp] theorem State.enterEvent_stored (s : State) (k : Fin 16) (ra : Word) : (s.enterEvent k ra).stored = s.stored := rfl
@[simp] theorem State.enterEvent_arrivals (s : State) (k : Fin 16) (ra : Word) : (s.enterEvent k ra).arrivals = s.arrivals := rfl
@[simp] theorem State.enterEvent_draws (s : State) (k : Fin 16) (ra : Word) : (s.enterEvent k ra).draws = s.draws := rfl

/-! ### The record of an exception -/

@[simp] theorem State.recordFault_r (s : State) (c : Cause) : (s.recordFault c).r = s.r := by cases c <;> rfl
@[simp] theorem State.recordFault_p (s : State) (c : Cause) : (s.recordFault c).p = s.p := by cases c <;> rfl
@[simp] theorem State.recordFault_spSup (s : State) (c : Cause) : (s.recordFault c).spSup = s.spSup := by cases c <;> rfl
@[simp] theorem State.recordFault_usp (s : State) (c : Cause) : (s.recordFault c).usp = s.usp := by cases c <;> rfl
@[simp] theorem State.recordFault_i (s : State) (c : Cause) : (s.recordFault c).i = s.i := by cases c <;> rfl
@[simp] theorem State.recordFault_m (s : State) (c : Cause) : (s.recordFault c).m = s.m := by cases c <;> rfl
@[simp] theorem State.recordFault_b (s : State) (c : Cause) : (s.recordFault c).b = s.b := by cases c <;> rfl
@[simp] theorem State.recordFault_l (s : State) (c : Cause) : (s.recordFault c).l = s.l := by cases c <;> rfl
@[simp] theorem State.recordFault_a0 (s : State) (c : Cause) : (s.recordFault c).a0 = s.a0 := by cases c <;> rfl
@[simp] theorem State.recordFault_a1 (s : State) (c : Cause) : (s.recordFault c).a1 = s.a1 := by cases c <;> rfl
@[simp] theorem State.recordFault_astat (s : State) (c : Cause) : (s.recordFault c).astat = s.astat := by cases c <;> rfl
@[simp] theorem State.recordFault_pc (s : State) (c : Cause) : (s.recordFault c).pc = s.pc := by cases c <;> rfl
@[simp] theorem State.recordFault_rets (s : State) (c : Cause) : (s.recordFault c).rets = s.rets := by cases c <;> rfl
@[simp] theorem State.recordFault_reti (s : State) (c : Cause) : (s.recordFault c).reti = s.reti := by cases c <;> rfl
@[simp] theorem State.recordFault_retx (s : State) (c : Cause) : (s.recordFault c).retx = s.retx := by cases c <;> rfl
@[simp] theorem State.recordFault_retn (s : State) (c : Cause) : (s.recordFault c).retn = s.retn := by cases c <;> rfl
@[simp] theorem State.recordFault_rete (s : State) (c : Cause) : (s.recordFault c).rete = s.rete := by cases c <;> rfl
@[simp] theorem State.recordFault_loop0 (s : State) (c : Cause) : (s.recordFault c).loop0 = s.loop0 := by cases c <;> rfl
@[simp] theorem State.recordFault_loop1 (s : State) (c : Cause) : (s.recordFault c).loop1 = s.loop1 := by cases c <;> rfl
@[simp] theorem State.recordFault_seqstat (s : State) (c : Cause) : (s.recordFault c).seqstat = s.seqstat := by cases c <;> rfl
@[simp] theorem State.recordFault_syscfg (s : State) (c : Cause) : (s.recordFault c).syscfg = s.syscfg := by cases c <;> rfl
@[simp] theorem State.recordFault_emudat (s : State) (c : Cause) : (s.recordFault c).emudat = s.emudat := by cases c <;> rfl
@[simp] theorem State.recordFault_evt (s : State) (c : Cause) : (s.recordFault c).evt = s.evt := by cases c <;> rfl
@[simp] theorem State.recordFault_imask (s : State) (c : Cause) : (s.recordFault c).imask = s.imask := by cases c <;> rfl
@[simp] theorem State.recordFault_ipend (s : State) (c : Cause) : (s.recordFault c).ipend = s.ipend := by cases c <;> rfl
@[simp] theorem State.recordFault_ilat (s : State) (c : Cause) : (s.recordFault c).ilat = s.ilat := by cases c <;> rfl
@[simp] theorem State.recordFault_iprio (s : State) (c : Cause) : (s.recordFault c).iprio = s.iprio := by cases c <;> rfl
@[simp] theorem State.recordFault_timer (s : State) (c : Cause) : (s.recordFault c).timer = s.timer := by cases c <;> rfl
@[simp] theorem State.recordFault_idle (s : State) (c : Cause) : (s.recordFault c).idle = s.idle := by cases c <;> rfl
@[simp] theorem State.recordFault_mem (s : State) (c : Cause) : (s.recordFault c).mem = s.mem := by cases c <;> rfl
@[simp] theorem State.recordFault_platform (s : State) (c : Cause) : (s.recordFault c).platform = s.platform := by cases c <;> rfl
@[simp] theorem State.recordFault_fetched (s : State) (c : Cause) : (s.recordFault c).fetched = s.fetched := by cases c <;> rfl
@[simp] theorem State.recordFault_stored (s : State) (c : Cause) : (s.recordFault c).stored = s.stored := by cases c <;> rfl
@[simp] theorem State.recordFault_arrivals (s : State) (c : Cause) : (s.recordFault c).arrivals = s.arrivals := by cases c <;> rfl

/-! ### The loop check -/

@[simp] theorem State.loopCheck_r (s : State) (a q : Word) : (s.loopCheck a q).r = s.r := by unfold State.loopCheck; split <;> first | rfl | (split <;> rfl)
@[simp] theorem State.loopCheck_p (s : State) (a q : Word) : (s.loopCheck a q).p = s.p := by unfold State.loopCheck; split <;> first | rfl | (split <;> rfl)
@[simp] theorem State.loopCheck_spSup (s : State) (a q : Word) : (s.loopCheck a q).spSup = s.spSup := by unfold State.loopCheck; split <;> first | rfl | (split <;> rfl)
@[simp] theorem State.loopCheck_usp (s : State) (a q : Word) : (s.loopCheck a q).usp = s.usp := by unfold State.loopCheck; split <;> first | rfl | (split <;> rfl)
@[simp] theorem State.loopCheck_i (s : State) (a q : Word) : (s.loopCheck a q).i = s.i := by unfold State.loopCheck; split <;> first | rfl | (split <;> rfl)
@[simp] theorem State.loopCheck_m (s : State) (a q : Word) : (s.loopCheck a q).m = s.m := by unfold State.loopCheck; split <;> first | rfl | (split <;> rfl)
@[simp] theorem State.loopCheck_b (s : State) (a q : Word) : (s.loopCheck a q).b = s.b := by unfold State.loopCheck; split <;> first | rfl | (split <;> rfl)
@[simp] theorem State.loopCheck_l (s : State) (a q : Word) : (s.loopCheck a q).l = s.l := by unfold State.loopCheck; split <;> first | rfl | (split <;> rfl)
@[simp] theorem State.loopCheck_a0 (s : State) (a q : Word) : (s.loopCheck a q).a0 = s.a0 := by unfold State.loopCheck; split <;> first | rfl | (split <;> rfl)
@[simp] theorem State.loopCheck_a1 (s : State) (a q : Word) : (s.loopCheck a q).a1 = s.a1 := by unfold State.loopCheck; split <;> first | rfl | (split <;> rfl)
@[simp] theorem State.loopCheck_astat (s : State) (a q : Word) : (s.loopCheck a q).astat = s.astat := by unfold State.loopCheck; split <;> first | rfl | (split <;> rfl)
@[simp] theorem State.loopCheck_rets (s : State) (a q : Word) : (s.loopCheck a q).rets = s.rets := by unfold State.loopCheck; split <;> first | rfl | (split <;> rfl)
@[simp] theorem State.loopCheck_reti (s : State) (a q : Word) : (s.loopCheck a q).reti = s.reti := by unfold State.loopCheck; split <;> first | rfl | (split <;> rfl)
@[simp] theorem State.loopCheck_retx (s : State) (a q : Word) : (s.loopCheck a q).retx = s.retx := by unfold State.loopCheck; split <;> first | rfl | (split <;> rfl)
@[simp] theorem State.loopCheck_retn (s : State) (a q : Word) : (s.loopCheck a q).retn = s.retn := by unfold State.loopCheck; split <;> first | rfl | (split <;> rfl)
@[simp] theorem State.loopCheck_rete (s : State) (a q : Word) : (s.loopCheck a q).rete = s.rete := by unfold State.loopCheck; split <;> first | rfl | (split <;> rfl)
@[simp] theorem State.loopCheck_seqstat (s : State) (a q : Word) : (s.loopCheck a q).seqstat = s.seqstat := by unfold State.loopCheck; split <;> first | rfl | (split <;> rfl)
@[simp] theorem State.loopCheck_syscfg (s : State) (a q : Word) : (s.loopCheck a q).syscfg = s.syscfg := by unfold State.loopCheck; split <;> first | rfl | (split <;> rfl)
@[simp] theorem State.loopCheck_emudat (s : State) (a q : Word) : (s.loopCheck a q).emudat = s.emudat := by unfold State.loopCheck; split <;> first | rfl | (split <;> rfl)
@[simp] theorem State.loopCheck_evt (s : State) (a q : Word) : (s.loopCheck a q).evt = s.evt := by unfold State.loopCheck; split <;> first | rfl | (split <;> rfl)
@[simp] theorem State.loopCheck_imask (s : State) (a q : Word) : (s.loopCheck a q).imask = s.imask := by unfold State.loopCheck; split <;> first | rfl | (split <;> rfl)
@[simp] theorem State.loopCheck_ipend (s : State) (a q : Word) : (s.loopCheck a q).ipend = s.ipend := by unfold State.loopCheck; split <;> first | rfl | (split <;> rfl)
@[simp] theorem State.loopCheck_ilat (s : State) (a q : Word) : (s.loopCheck a q).ilat = s.ilat := by unfold State.loopCheck; split <;> first | rfl | (split <;> rfl)
@[simp] theorem State.loopCheck_iprio (s : State) (a q : Word) : (s.loopCheck a q).iprio = s.iprio := by unfold State.loopCheck; split <;> first | rfl | (split <;> rfl)
@[simp] theorem State.loopCheck_timer (s : State) (a q : Word) : (s.loopCheck a q).timer = s.timer := by unfold State.loopCheck; split <;> first | rfl | (split <;> rfl)
@[simp] theorem State.loopCheck_sys (s : State) (a q : Word) : (s.loopCheck a q).sys = s.sys := by unfold State.loopCheck; split <;> first | rfl | (split <;> rfl)
@[simp] theorem State.loopCheck_idle (s : State) (a q : Word) : (s.loopCheck a q).idle = s.idle := by unfold State.loopCheck; split <;> first | rfl | (split <;> rfl)
@[simp] theorem State.loopCheck_mem (s : State) (a q : Word) : (s.loopCheck a q).mem = s.mem := by unfold State.loopCheck; split <;> first | rfl | (split <;> rfl)
@[simp] theorem State.loopCheck_platform (s : State) (a q : Word) : (s.loopCheck a q).platform = s.platform := by unfold State.loopCheck; split <;> first | rfl | (split <;> rfl)
@[simp] theorem State.loopCheck_fetched (s : State) (a q : Word) : (s.loopCheck a q).fetched = s.fetched := by unfold State.loopCheck; split <;> first | rfl | (split <;> rfl)
@[simp] theorem State.loopCheck_stored (s : State) (a q : Word) : (s.loopCheck a q).stored = s.stored := by unfold State.loopCheck; split <;> first | rfl | (split <;> rfl)
@[simp] theorem State.loopCheck_arrivals (s : State) (a q : Word) : (s.loopCheck a q).arrivals = s.arrivals := by unfold State.loopCheck; split <;> first | rfl | (split <;> rfl)
@[simp] theorem State.loopCheck_draws (s : State) (a q : Word) : (s.loopCheck a q).draws = s.draws := by unfold State.loopCheck; split <;> first | rfl | (split <;> rfl)

/-! ### Reading back -/

theorem DRegs.get_set_self (f : DRegs) (n : DReg) (v : Word) : (f.set n v).get n = v := by cases n <;> rfl

theorem DRegs.get_set_other (f : DRegs) (n k : DReg) (v : Word) (h : k ≠ n) : (f.set n v).get k = f.get k := by
  cases n <;> cases k <;> first | rfl | exact absurd rfl h

theorem Quads.get_set_self (f : Quads) (n : Quad) (v : Word) : (f.set n v).get n = v := by cases n <;> rfl

theorem Quads.get_set_other (f : Quads) (n k : Quad) (v : Word) (h : k ≠ n) : (f.set n v).get k = f.get k := by
  cases n <;> cases k <;> first | rfl | exact absurd rfl h

/-- The mode depends on IPEND alone (60 R421). -/
theorem State.mode_congr {s t : State} (h : t.ipend = s.ipend) : t.mode = s.mode := by simp [State.mode, h]

@[simp] theorem State.setSp_mode (s : State) (v : Word) : (s.setSp v).mode = s.mode := State.mode_congr (by simp)

@[simp] theorem State.setP_mode (s : State) (n : PReg) (v : Word) : (s.setP n v).mode = s.mode :=
  State.mode_congr (by simp)

@[simp] theorem State.setD_mode (s : State) (n : DReg) (v : Word) : (s.setD n v).mode = s.mode := rfl

@[simp] theorem State.sp_setSp (s : State) (v : Word) : (s.setSp v).sp = v := by
  rw [State.sp, State.setSp_mode]; unfold State.setSp; cases s.mode <;> rfl

@[simp] theorem State.getD_setD_self (s : State) (n : DReg) (v : Word) : (s.setD n v).getD n = v :=
  DRegs.get_set_self _ _ _

theorem State.getD_setD_other (s : State) (n k : DReg) (v : Word) (h : k ≠ n) : (s.setD n v).getD k = s.getD k :=
  DRegs.get_set_other _ _ _ _ h

@[simp] theorem State.getD_setP (s : State) (n : PReg) (v : Word) (k : DReg) : (s.setP n v).getD k = s.getD k := by
  simp [State.getD]

@[simp] theorem State.getP_setD (s : State) (n : DReg) (v : Word) (k : PReg) : (s.setD n v).getP k = s.getP k := by
  cases k <;> rfl

end Sys2Proof.Machine
end

