-- ==== Sys2Proof/Laws/Memory.lean ====
section
/-! SUPPORT. Memory byte by byte, sets of addresses, and that every operation on them keeps the canonical form. -/

namespace Sys2Proof.Machine

/-! ### One byte -/

@[simp] theorem Memory.read_write_self (m : Memory) (a : Nat) (x : Byte) : (m.write a x).read a = some x := by
  induction m with
  | nil => simp [Memory.write, Memory.read]
  | cons c m ih =>
    obtain ⟨k, v⟩ := c
    by_cases h : a < k
    · simp [Memory.write, Memory.read, h]
    · by_cases h' : a = k
      · simp [Memory.write, Memory.read, h']
      · simp [Memory.write, Memory.read, h, h', Ne.symm h', ih]

theorem Memory.read_write_other (m : Memory) (a b : Nat) (x : Byte) (h : b ≠ a) :
    (m.write a x).read b = m.read b := by
  induction m with
  | nil => simp [Memory.write, Memory.read, Ne.symm h]
  | cons c m ih =>
    obtain ⟨k, v⟩ := c
    by_cases h1 : a < k
    · simp [Memory.write, Memory.read, h1, Ne.symm h]
    · by_cases h2 : a = k
      · subst h2; simp [Memory.write, Memory.read, Ne.symm h]
      · by_cases h3 : k = b
        · subst h3; simp [Memory.write, Memory.read, h1, h2]
        · simp [Memory.write, Memory.read, h1, h2, h3, ih]

theorem Memory.wf_cons (k : Nat) (v : Byte) (m : Memory) :
    Memory.wf ((k, v) :: m) = true ↔ k < 2 ^ 32 ∧ (∀ c ∈ m, k < c.1) ∧ Memory.wf m = true := by
  simp only [Memory.wf, Bool.and_eq_true, decide_eq_true_eq, List.all_eq_true, and_assoc]

/-- The addresses a write leaves in memory: those there were, and the one written. -/
theorem Memory.mem_write (m : Memory) (a : Nat) (x : Byte) (c : Host.Cell) (h : c ∈ m.write a x) :
    c.1 = a ∨ c ∈ m := by
  induction m with
  | nil => simp [Memory.write] at h; simp [h]
  | cons d m ih =>
    obtain ⟨k, v⟩ := d
    unfold Memory.write at h
    split at h
    · simp only [List.mem_cons] at h ⊢
      rcases h with rfl | rfl | h <;> simp_all
    · split at h
      · simp only [List.mem_cons] at h ⊢
        rcases h with rfl | h <;> simp_all
      · simp only [List.mem_cons] at h ⊢
        rcases h with rfl | h
        · simp
        · rcases ih h with h | h <;> simp [h]

/-- A write of one byte keeps the canonical form. -/
theorem Memory.write_wf (m : Memory) (a : Nat) (x : Byte) (hm : m.wf = true) (ha : a < 2 ^ 32) :
    (m.write a x).wf = true := by
  induction m with
  | nil => simp only [Memory.write, Memory.wf_cons]; exact ⟨ha, by simp, rfl⟩
  | cons c m ih =>
    obtain ⟨k, v⟩ := c
    have hm' := hm
    rw [Memory.wf_cons] at hm
    obtain ⟨hk, hlt, hwf⟩ := hm
    unfold Memory.write
    split
    · rename_i h
      rw [Memory.wf_cons]
      refine ⟨ha, ?_, hm'⟩
      intro c hc
      rcases List.mem_cons.mp hc with rfl | hc
      · exact h
      · exact Nat.lt_trans h (hlt c hc)
    · split
      · rename_i h _; subst_vars; rw [Memory.wf_cons]; exact ⟨ha, hlt, hwf⟩
      · rename_i h h'
        rw [Memory.wf_cons]
        refine ⟨hk, ?_, ih hwf⟩
        intro c hc
        rcases Memory.mem_write m a x c hc with e | hc
        · omega
        · exact hlt c hc

/-! ### Several bytes -/

theorem Memory.read_writeBytes_outside (m : Memory) (a b : Nat) (xs : List Byte) (h : b < a ∨ a + xs.length ≤ b) :
    (m.writeBytes a xs).read b = m.read b := by
  induction xs generalizing m a with
  | nil => rfl
  | cons x xs ih =>
    simp only [List.length_cons] at h
    rw [Memory.writeBytes, ih _ _ (by omega), Memory.read_write_other _ _ _ _ (by omega)]

theorem Memory.read_writeBytes_inside (m : Memory) (a k : Nat) (xs : List Byte) (h : k < xs.length) :
    (m.writeBytes a xs).read (a + k) = some xs[k] := by
  induction xs generalizing m a k with
  | nil => simp at h
  | cons x xs ih =>
    rw [Memory.writeBytes]
    cases k with
    | zero => rw [Nat.add_zero, Memory.read_writeBytes_outside _ _ _ _ (by omega)]; simp
    | succ k =>
      have := ih (m.write a x) (a + 1) k (by simpa using h)
      rw [show a + (k + 1) = a + 1 + k by omega, this]; simp

/-- A write of several bytes keeps the canonical form. -/
theorem Memory.writeBytes_wf (m : Memory) (a : Nat) (xs : List Byte) (hm : m.wf = true)
    (ha : a + xs.length ≤ 2 ^ 32) : (m.writeBytes a xs).wf = true := by
  induction xs generalizing m a with
  | nil => exact hm
  | cons x xs ih =>
    simp only [List.length_cons] at ha
    exact ih _ _ (Memory.write_wf m a x hm (by omega)) (by omega)

/-- Several bytes are read where each of them holds a value. -/
theorem Memory.readBytes_some (m : Memory) (a n : Nat) (xs : List Byte) :
    m.readBytes a n = some xs ↔ xs.length = n ∧ ∀ k, (h : k < xs.length) → m.read (a + k) = some xs[k] := by
  induction n generalizing a xs with
  | zero =>
    cases xs with
    | nil => simp [Memory.readBytes]
    | cons x xs => simp [Memory.readBytes]
  | succ n ih =>
    unfold Memory.readBytes
    cases xs with
    | nil => split <;> simp
    | cons x xs =>
      constructor
      · intro h
        split at h
        · rename_i y ys hy hys
          simp only [Option.some.injEq, List.cons.injEq] at h
          obtain ⟨rfl, rfl⟩ := h
          obtain ⟨hl, hr⟩ := (ih (a + 1) _).mp hys
          refine ⟨by simp [hl], fun k hk => ?_⟩
          cases k with
          | zero => simpa using hy
          | succ k =>
            rw [show a + (k + 1) = a + 1 + k by omega]
            simpa using hr k (by simpa using hk)
        · cases h
      · rintro ⟨hl, hr⟩
        have h0 : m.read a = some x := hr 0 (by simp)
        have h1 : m.readBytes (a + 1) n = some xs := by
          refine (ih (a + 1) xs).mpr ⟨by simpa using hl, fun k hk => ?_⟩
          have := hr (k + 1) (by simpa using hk)
          rw [show a + 1 + k = a + (k + 1) by omega]
          simpa using this
        simp [h0, h1]

/-! ### Sets of addresses -/

theorem AddrSet.mem_insert (t : AddrSet) (a x : Nat) : x ∈ t.insert a ↔ x = a ∨ x ∈ t := by
  induction t with
  | nil => simp [AddrSet.insert]
  | cons k t ih =>
    unfold AddrSet.insert
    split
    · simp
    · split
      · rename_i h; subst h; simp
      · simp only [List.mem_cons]
        constructor
        · rintro (h | h)
          · exact .inr (.inl h)
          · rcases ih.mp h with h | h <;> simp [h]
        · rintro (h | h | h)
          · exact .inr (ih.mpr (.inl h))
          · exact .inl h
          · exact .inr (ih.mpr (.inr h))

theorem AddrSet.mem_insertAll (t : AddrSet) (as : List Nat) (x : Nat) :
    x ∈ t.insertAll as ↔ x ∈ as ∨ x ∈ t := by
  unfold AddrSet.insertAll
  induction as generalizing t with
  | nil => simp
  | cons a as ih =>
    simp only [List.foldl_cons, ih, AddrSet.mem_insert, List.mem_cons]
    exact ⟨fun h => by rcases h with h | h | h <;> simp [h], fun h => by rcases h with (h | h) | h <;> simp [h]⟩

theorem AddrSet.wf_cons (k : Nat) (t : AddrSet) : AddrSet.wf (k :: t) = true ↔ (∀ x ∈ t, k < x) ∧ t.wf = true := by
  simp only [AddrSet.wf, Bool.and_eq_true, List.all_eq_true, decide_eq_true_eq]

/-- An insertion keeps the canonical form. -/
theorem AddrSet.insert_wf (t : AddrSet) (a : Nat) (h : t.wf = true) : (t.insert a).wf = true := by
  induction t with
  | nil => simp [AddrSet.insert, AddrSet.wf]
  | cons k t ih =>
    have h0 := h
    rw [AddrSet.wf_cons] at h
    obtain ⟨h1, h2⟩ := h
    unfold AddrSet.insert
    split
    · rename_i hlt
      rw [AddrSet.wf_cons]
      refine ⟨fun x hx => ?_, h0⟩
      rcases List.mem_cons.mp hx with rfl | hx
      · exact hlt
      · exact Nat.lt_trans hlt (h1 x hx)
    · split
      · exact h0
      · rw [AddrSet.wf_cons]
        refine ⟨fun x hx => ?_, ih h2⟩
        rcases (AddrSet.mem_insert t a x).mp hx with rfl | hx
        · omega
        · exact h1 x hx

/-- Insertions keep the canonical form. -/
theorem AddrSet.insertAll_wf (t : AddrSet) (as : List Nat) (h : t.wf = true) : (t.insertAll as).wf = true := by
  unfold AddrSet.insertAll
  induction as generalizing t with
  | nil => exact h
  | cons a as ih => exact ih _ (AddrSet.insert_wf t a h)

theorem mem_span (a n x : Nat) : x ∈ span a n ↔ a ≤ x ∧ x < a + n := by
  simp only [span, List.mem_map, List.mem_range]
  constructor
  · rintro ⟨k, hk, rfl⟩; omega
  · rintro ⟨h1, h2⟩; exact ⟨x - a, by omega, by omega⟩

/-! ### Bytes of a word -/

@[simp] theorem splitBytes_length (v : Word) (n : Nat) : (splitBytes v n).length = n := by simp [splitBytes]

theorem splitBytes_get (v : Word) (n k : Nat) (h : k < (splitBytes v n).length) :
    (splitBytes v n)[k] = v.extractLsb' (8 * k) 8 := by simp [splitBytes]

/-- The reset memory has the canonical form. -/
theorem reset_memory_wf : State.reset.mem.wf = true := rfl

/-- A store keeps the canonical form of memory (`Memory.wf`). -/
theorem State.putBytes_mem_wf (s : State) (a : Nat) (z : Size) (v : Word) (h : s.mem.wf = true)
    (ha : a + z.bytes ≤ 2 ^ 32) : (s.putBytes a z v).mem.wf = true :=
  Memory.writeBytes_wf _ _ _ h (by simpa using ha)

end Sys2Proof.Machine
end

