-- ==== Sys2Proof/Laws/Ops.lean ====
section
/-! SUPPORT. What each shared operation can do, said once: cite these instead of unfolding the operation. -/

namespace Sys2Proof.Machine

/-! ### Sequencing -/

theorem Res.bind_ok {α β : Type} (x : Res α) (k : α → Res β) (b : β) :
    x.bind k = .ok b ↔ ∃ a, x = .ok a ∧ k a = .ok b := by
  cases x <;> simp [Res.bind]

@[simp] theorem Res.ok_bind {α β : Type} (a : α) (k : α → Res β) : (Res.ok a).bind k = k a := rfl

@[simp] theorem Res.trap_bind {α β : Type} (c : Cause) (k : α → Res β) : (Res.trap c).bind k = .trap c := rfl

@[simp] theorem Res.fault_bind {α β : Type} (f : Fault) (k : α → Res β) : (Res.fault f).bind k = .fault f := rfl

@[simp] theorem Res.refused_bind {α β : Type} (r : Refusal) (k : α → Res β) : (Res.refused r).bind k = .refused r := rfl

/-! ### Exceptions -/

theorem clearBit_three (w : Word) : clearBit w 3 = w &&& 0xFFFFFFF7#32 := by
  unfold clearBit; congr 1

theorem setBit_three (w : Word) : setBit w 3 = w ||| 8#32 := by
  unfold setBit; congr 1

theorem withExcause_eq (w : Word) (c : BitVec 6) :
    withExcause w c = (w &&& 0xFFFFFFC0#32) ||| c.setWidth 32 := by
  have h : ∀ i, i < 32 → (0xFFFFFFC0#32).getLsbD i = decide (6 ≤ i) := by decide
  apply BitVec.eq_of_getLsbD_eq
  intro i hi
  simp only [withExcause, BitVec.getLsbD_append, BitVec.getLsbD_or, BitVec.getLsbD_and, BitVec.getLsbD_setWidth,
    BitVec.getLsbD_extractLsb', h i hi]
  by_cases h6 : i < 6
  · simp [h6, hi, Nat.not_le.mpr h6]
  · simp [h6, hi, Nat.le_of_not_lt h6, show i - 6 < 26 by omega, show 6 + (i - 6) = i by omega]

theorem currentLevel_gt_three (w : Word) : 3 < currentLevel w ↔ w &&& 0xF#32 = 0#32 := by
  have h : w &&& 0xF#32 = 0#32 ↔
      bit w 0 = false ∧ bit w 1 = false ∧ bit w 2 = false ∧ bit w 3 = false := by
    constructor
    · intro h
      have g : ∀ i, (w &&& 0xF#32).getLsbD i = false := by rw [h]; simp
      exact ⟨by simpa [bit] using g 0, by simpa [bit] using g 1, by simpa [bit] using g 2, by simpa [bit] using g 3⟩
    · rintro ⟨h0, h1, h2, h3⟩
      have hf : ∀ i, i < 32 → (0xF#32).getLsbD i = decide (i < 4) := by decide
      apply BitVec.eq_of_getLsbD_eq
      intro i hi
      rw [BitVec.getLsbD_and, hf i hi]
      by_cases h4 : i < 4
      · have : i = 0 ∨ i = 1 ∨ i = 2 ∨ i = 3 := by omega
        rcases this with rfl | rfl | rfl | rfl <;> simp_all [bit]
      · simp [h4]
  rw [h]
  unfold currentLevel levels
  simp only [List.find?]
  cases bit w 0 <;> cases bit w 1 <;> cases bit w 2 <;> cases bit w 3 <;> simp
  repeat' split
  all_goals simp

/-- What a misaligned data access records (60 R445). -/
@[simp] theorem State.recordFault_data (s : State) (a : Word) : s.recordFault (.dataMisaligned a) = s.dataFault a := rfl

/-- What a misaligned fetch records. -/
@[simp] theorem State.recordFault_fetch (s : State) : s.recordFault .instrMisaligned = s.fetchFault := rfl

/-- EXCPT records nothing. -/
@[simp] theorem State.recordFault_excpt (s : State) (n : BitVec 4) : s.recordFault (.excpt n) = s := rfl

/-- A privileged instruction or access in User mode records nothing. -/
@[simp] theorem State.recordFault_supervisor (s : State) : s.recordFault .illegalSupervisor = s := rfl

/-- Whether an exception can be taken does not depend on the record. -/
@[simp] theorem State.recordFault_canTrap (s : State) (c : Cause) : (s.recordFault c).CanTrap ↔ s.CanTrap := by
  unfold State.CanTrap; rw [s.recordFault_ipend]

/-- What taking an exception does (60 R440, R445, R446, R448). -/
theorem takeException_eq (s : State) (c : Cause) :
    (s.CanTrap → takeException s c = .next ((s.recordFault c).trapped c.code (s.exceptionReturn c))) ∧
    (¬ s.CanTrap → takeException s c = .fault .doubleFault) := by
  have h := currentLevel_gt_three s.ipend
  constructor
  · intro hc
    have e : ∀ (s : State) (ra : Word), s.enterEvent 3 ra =
        { s with retx := ra, ilat := s.ilat &&& 0xFFFFFFF7#32, ipend := s.ipend ||| 8#32, pc := s.evt[3], idle := false } := by
      intro s ra
      rw [← clearBit_three, ← setBit_three]; rfl
    rw [takeException, if_pos (h.mpr hc), e, ← s.recordFault_seqstat c, withExcause_eq]
    rfl
  · intro hc
    rw [takeException, if_neg (fun g => hc (h.mp g))]

/-- An exception that answers a next state. -/
theorem takeException_next (s t : State) (c : Cause) (h : takeException s c = .next t) :
    s.CanTrap ∧ t = (s.recordFault c).trapped c.code (s.exceptionReturn c) := by
  by_cases hc : s.CanTrap
  · rw [(takeException_eq s c).1 hc] at h
    exact ⟨hc, by injection h with h; exact h.symm⟩
  · rw [(takeException_eq s c).2 hc] at h; cases h

/-- The same, by the record that the cause leaves (60 R445). -/
theorem takeException_trapsTo (s t : State) (c : Cause) (h : takeException s c = .next t) : s.TrapsTo t := by
  rw [(takeException_next s t c h).2]
  refine ⟨c.code, s.exceptionReturn c, ?_⟩
  cases c with
  | dataProtection a | dataMisaligned a | dataCplbMiss a | dataCplbMultiple a =>
    exact .inl ⟨by simp [Cause.code, dataFaultCodes], a, rfl⟩
  | instrProtection | instrMisaligned | instrCplbMiss | instrCplbMultiple => exact .inr (.inl ⟨by decide, rfl⟩)
  | excpt n => exact .inr (.inr ⟨by clear h; revert n; decide, by clear h; revert n; decide, rfl⟩)
  | singleStep | traceFull | undefinedInstr | illegalCombination | unrecoverable | watchpoint | fetchReserved
  | illegalSupervisor => exact .inr (.inr ⟨by decide, by decide, rfl⟩)

/-- A Supervisor-only instruction that answers a next state. -/
theorem supervisorOnly_next (s t : State) (k : Result) (h : supervisorOnly s k = .next t) :
    (s.mode = .user ∧ takeException s .illegalSupervisor = .next t) ∨ (s.mode ≠ .user ∧ k = .next t) := by
  unfold supervisorOnly at h
  split at h
  · exact .inl ⟨by assumption, h⟩
  · rename_i hm; exact .inr ⟨by simp [hm], h⟩
  · rename_i hm; exact .inr ⟨by simp [hm], h⟩

/-- An instruction that must not end a loop, answering a next state. -/
theorem notAtLoopEnd_next (s t : State) (k : Result) (h : notAtLoopEnd s k = .next t) :
    s.atLoopEnd = false ∧ k = .next t := by
  unfold notAtLoopEnd at h
  split at h
  · cases h
  · rename_i hl; exact ⟨by simpa using hl, h⟩

/-- An event return that answers a next state. -/
theorem eventReturn_next (s t : State) (ra ip : Word) (h : eventReturn s ra ip = .next t) :
    bit ra 0 = false ∧ t = { s with ipend := ip, pc := ra } := by
  unfold eventReturn at h
  split at h
  · cases h
  · rename_i hb; injection h with h; exact ⟨by simpa using hb, h.symm⟩

/-! ### The end of an instruction -/

theorem LoopRegs.check_cases (l : LoopRegs) (a : Word) :
    (l.endsAt a = false ∧ l.check a = (l, none)) ∨
    (l.endsAt a = true ∧ l.lc.toNat = 1 ∧ l.check a = ({ l with lc := 0#32 }, none)) ∨
    (l.endsAt a = true ∧ 2 ≤ l.lc.toNat ∧ l.check a = ({ l with lc := l.lc - 1#32 }, some l.lt)) := by
  unfold LoopRegs.check
  cases h : l.endsAt a
  · exact .inl (by simp)
  · by_cases h2 : 2 ≤ l.lc.toNat
    · exact .inr (.inr (by simp [h2]))
    · refine .inr (.inl ⟨rfl, ?_, by simp [h2]⟩)
      have : l.lc ≠ 0#32 := by simp [LoopRegs.endsAt] at h; exact h.1
      have : l.lc.toNat ≠ 0 := fun e => this (BitVec.eq_of_toNat_eq (by simpa using e))
      omega

theorem State.ends_iff (s : State) (l : LoopRegs) : s.Ends l ↔ l.endsAt s.pc = true := by
  simp [State.Ends, LoopRegs.endsAt]

theorem State.fellThrough_none (s : State) (l : LoopRegs) (l' : LoopRegs) (h : l.check s.pc = (l', none)) :
    s.FellThrough l l' := by
  rcases l.check_cases s.pc with ⟨he, hc⟩ | ⟨he, h1, hc⟩ | ⟨_, _, hc⟩
  · rw [hc] at h; cases h
    exact ⟨rfl, rfl, fun e => absurd ((s.ends_iff l).mp e) (by simp [he]), fun _ => rfl⟩
  · rw [hc] at h; cases h
    exact ⟨rfl, rfl, fun _ => ⟨h1, rfl⟩, fun e => absurd ((s.ends_iff l).mpr he) e⟩
  · rw [hc] at h; cases h

theorem State.goesBack_some (s : State) (l l' : LoopRegs) (top : Word) (h : l.check s.pc = (l', some top)) :
    s.GoesBack l l' ∧ top = l.lt := by
  rcases l.check_cases s.pc with ⟨_, hc⟩ | ⟨_, _, hc⟩ | ⟨he, h2, hc⟩
  · rw [hc] at h; cases h
  · rw [hc] at h; cases h
  · rw [hc] at h; cases h
    refine ⟨⟨(s.ends_iff l).mpr he, rfl, rfl, ?_, ?_⟩, rfl⟩ <;> (simp only; bv_omega)

/-- The loop check is the rule of 42 R330. -/
theorem State.loopCheck_advanced (u : State) (len : Nat) (h : u.Fits len) :
    u.Advanced (u.loopCheck u.pc (u.pc + BitVec.ofNat 32 len)) len := by
  unfold State.Fits at h
  unfold State.loopCheck
  split
  · rename_i l1 top h1
    obtain ⟨g1, rfl⟩ := u.goesBack_some _ _ _ h1
    exact ⟨rfl, .inl ⟨g1, rfl, rfl⟩⟩
  · rename_i l1 h1
    have f1 := u.fellThrough_none _ _ h1
    split
    · rename_i l0 top h0
      obtain ⟨g0, rfl⟩ := u.goesBack_some _ _ _ h0
      exact ⟨rfl, .inr (.inl ⟨f1, g0, rfl⟩)⟩
    · rename_i l0 h0
      have f0 := u.fellThrough_none _ _ h0
      refine ⟨rfl, .inr (.inr ⟨f1, f0, ?_⟩)⟩
      simp only [BitVec.toNat_add, BitVec.toNat_ofNat]
      omega

/-- A sequential instruction that fits into the address space completes. -/
theorem retire_fits (u : State) (len : Nat) (h : u.Fits len) :
    ∃ t, retire len u = .next t ∧ u.Advanced t len :=
  ⟨_, by unfold retire; rw [if_neg (by unfold State.Fits at h; omega)], u.loopCheck_advanced len h⟩

/-- A sequential instruction that answers a next state. -/
theorem retire_next (u t : State) (len : Nat) (h : retire len u = .next t) :
    u.Fits len ∧ t = u.loopCheck u.pc (u.pc + BitVec.ofNat 32 len) := by
  unfold retire at h
  split at h
  · cases h
  · injection h with h; exact ⟨by unfold State.Fits; omega, h.symm⟩

/-- An instruction whose effects may stop it, answering a next state. -/
theorem finish_next (s t : State) (len : Nat) (x : Res State) (h : finish s len x = .next t) :
    (∃ u, x = .ok u ∧ retire len u = .next t) ∨ (∃ c, x = .trap c ∧ takeException s c = .next t) := by
  cases x with
  | ok u => exact .inl ⟨u, rfl, h⟩
  | trap c => exact .inr ⟨c, rfl, h⟩
  | fault f => cases h
  | refused r => cases h

/-! ### The address map -/

/-- One row of the map. -/
theorem find_mapRow (r : MapRow) (rs : List MapRow) (a : Nat) :
    (r :: rs).find? (fun m => m.first ≤ a && a ≤ m.last) =
      if r.first ≤ a ∧ a ≤ r.last then some r else rs.find? (fun m => m.first ≤ a && a ≤ m.last) := by
  by_cases h : r.first ≤ a ∧ a ≤ r.last
  · simp [h]
  · have : (decide (r.first ≤ a) && decide (a ≤ r.last)) = false := by simpa using h
    simp [h, this]

/-- Each row of the map decides the region of its addresses (20 R135). -/
theorem regionOf_eq (a : Nat) :
    regionOf a =
      if 0x00000000 ≤ a ∧ a ≤ 0x07FFFFFF then .sdram
      else if 0x20000000 ≤ a ∧ a ≤ 0x200FFFFF then .async 0
      else if 0x20100000 ≤ a ∧ a ≤ 0x201FFFFF then .async 1
      else if 0x20200000 ≤ a ∧ a ≤ 0x202FFFFF then .async 2
      else if 0x20300000 ≤ a ∧ a ≤ 0x203FFFFF then .async 3
      else if 0xEF000000 ≤ a ∧ a ≤ 0xEF0003FF then .bootRom
      else if 0xFF800000 ≤ a ∧ a ≤ 0xFF807FFF then .dataA
      else if 0xFF900000 ≤ a ∧ a ≤ 0xFF907FFF then .dataB
      else if 0xFFA00000 ≤ a ∧ a ≤ 0xFFA13FFF then .l1Instr
      else if 0xFFB00000 ≤ a ∧ a ≤ 0xFFB00FFF then .scratchpad
      else if 0xFFC00000 ≤ a ∧ a ≤ 0xFFDFFFFF then .sysMmr
      else if 0xFFE00000 ≤ a ∧ a ≤ 0xFFFFFFFF then .coreMmr
      else .reserved := by
  have h : regionOf a =
      ((memMap.find? (fun m => m.first ≤ a && a ≤ m.last)).map MapRow.region).getD .reserved := by
    unfold regionOf
    cases memMap.find? (fun m => m.first ≤ a && a ≤ m.last) <;> rfl
  rw [h]
  simp only [memMap, find_mapRow, List.find?_nil, apply_ite (Option.map MapRow.region),
    apply_ite (fun o => Option.getD o Region.reserved), Option.map_some, Option.map_none, Option.getD_some,
    Option.getD_none]

/-- The region of each address, and the range the address is in (20 R135). -/
theorem regionOf_cases (a : Nat) :
    (a < 0x08000000 ∧ regionOf a = .sdram) ∨
    (0x20000000 ≤ a ∧ a < 0x20100000 ∧ regionOf a = .async 0) ∨
    (0x20100000 ≤ a ∧ a < 0x20200000 ∧ regionOf a = .async 1) ∨
    (0x20200000 ≤ a ∧ a < 0x20300000 ∧ regionOf a = .async 2) ∨
    (0x20300000 ≤ a ∧ a < 0x20400000 ∧ regionOf a = .async 3) ∨
    (0xEF000000 ≤ a ∧ a < 0xEF000400 ∧ regionOf a = .bootRom) ∨
    (0xFF800000 ≤ a ∧ a < 0xFF808000 ∧ regionOf a = .dataA) ∨
    (0xFF900000 ≤ a ∧ a < 0xFF908000 ∧ regionOf a = .dataB) ∨
    (0xFFA00000 ≤ a ∧ a < 0xFFA14000 ∧ regionOf a = .l1Instr) ∨
    (0xFFB00000 ≤ a ∧ a < 0xFFB01000 ∧ regionOf a = .scratchpad) ∨
    (0xFFC00000 ≤ a ∧ a < 0xFFE00000 ∧ regionOf a = .sysMmr) ∨
    (0xFFE00000 ≤ a ∧ a < 0x100000000 ∧ regionOf a = .coreMmr) ∨
    (((0x08000000 ≤ a ∧ a < 0x20000000) ∨ (0x20400000 ≤ a ∧ a < 0xEF000000) ∨ (0xEF000400 ≤ a ∧ a < 0xFF800000) ∨
      (0xFF808000 ≤ a ∧ a < 0xFF900000) ∨ (0xFF908000 ≤ a ∧ a < 0xFFA00000) ∨ (0xFFA14000 ≤ a ∧ a < 0xFFB00000) ∨
      (0xFFB01000 ≤ a ∧ a < 0xFFC00000) ∨ 0x100000000 ≤ a) ∧ regionOf a = .reserved) := by
  rw [regionOf_eq]
  by_cases h0 : 0x00000000 ≤ a ∧ a ≤ 0x07FFFFFF
  · rw [if_pos h0]; left; exact ⟨by omega, rfl⟩
  rw [if_neg h0]; right
  by_cases h1 : 0x20000000 ≤ a ∧ a ≤ 0x200FFFFF
  · rw [if_pos h1]; left; exact ⟨by omega, by omega, rfl⟩
  rw [if_neg h1]; right
  by_cases h2 : 0x20100000 ≤ a ∧ a ≤ 0x201FFFFF
  · rw [if_pos h2]; left; exact ⟨by omega, by omega, rfl⟩
  rw [if_neg h2]; right
  by_cases h3 : 0x20200000 ≤ a ∧ a ≤ 0x202FFFFF
  · rw [if_pos h3]; left; exact ⟨by omega, by omega, rfl⟩
  rw [if_neg h3]; right
  by_cases h4 : 0x20300000 ≤ a ∧ a ≤ 0x203FFFFF
  · rw [if_pos h4]; left; exact ⟨by omega, by omega, rfl⟩
  rw [if_neg h4]; right
  by_cases h5 : 0xEF000000 ≤ a ∧ a ≤ 0xEF0003FF
  · rw [if_pos h5]; left; exact ⟨by omega, by omega, rfl⟩
  rw [if_neg h5]; right
  by_cases h6 : 0xFF800000 ≤ a ∧ a ≤ 0xFF807FFF
  · rw [if_pos h6]; left; exact ⟨by omega, by omega, rfl⟩
  rw [if_neg h6]; right
  by_cases h7 : 0xFF900000 ≤ a ∧ a ≤ 0xFF907FFF
  · rw [if_pos h7]; left; exact ⟨by omega, by omega, rfl⟩
  rw [if_neg h7]; right
  by_cases h8 : 0xFFA00000 ≤ a ∧ a ≤ 0xFFA13FFF
  · rw [if_pos h8]; left; exact ⟨by omega, by omega, rfl⟩
  rw [if_neg h8]; right
  by_cases h9 : 0xFFB00000 ≤ a ∧ a ≤ 0xFFB00FFF
  · rw [if_pos h9]; left; exact ⟨by omega, by omega, rfl⟩
  rw [if_neg h9]; right
  by_cases h10 : 0xFFC00000 ≤ a ∧ a ≤ 0xFFDFFFFF
  · rw [if_pos h10]; left; exact ⟨by omega, by omega, rfl⟩
  rw [if_neg h10]; right
  by_cases h11 : 0xFFE00000 ≤ a ∧ a ≤ 0xFFFFFFFF
  · rw [if_pos h11]; left; exact ⟨by omega, by omega, rfl⟩
  rw [if_neg h11]; right
  exact ⟨by omega, rfl⟩

/-- The bytes a load can reach below the MMRs (20 R136 (a), R138). -/
theorem readBar_none (p : Platform) (x : Nat) (hx : x < 0xFFC00000) : readBar p x = none ↔ p.DataReadable x := by
  unfold readBar Platform.populates Platform.DataReadable Platform.DataRam
  rcases regionOf_cases x with h | h | h | h | h | h | h | h | h | h | h | h | h
  case inr.inl => cases p.asyncBank0 <;> (simp [h]; try omega)
  case inr.inr.inl => cases p.asyncBank1 <;> (simp [h]; try omega)
  case inr.inr.inr.inl => cases p.asyncBank2 <;> (simp [h]; try omega)
  case inr.inr.inr.inr.inl => cases p.asyncBank3 <;> (simp [h]; try omega)
  all_goals simp [h] <;> omega

/-- The bytes a store can reach below the MMRs (20 R136 (a), R138, R146). -/
theorem writeBar_none (p : Platform) (x : Nat) (hx : x < 0xFFC00000) : writeBar p x = none ↔ p.DataRam x := by
  have h := readBar_none p x hx
  have hr : (∃ r, readBar p x = some r) ∨ readBar p x = none := by cases readBar p x <;> simp
  have hb : p.DataRam x → regionOf x ≠ .bootRom := by
    unfold Platform.DataRam
    rcases regionOf_cases x with g | g | g | g | g | g | g | g | g | g | g | g | g <;> (simp [g]; try omega)
  have hd : p.DataReadable x → ¬ p.DataRam x → regionOf x = .bootRom := by
    intro h1 h2
    rcases h1 with h1 | h1
    · exact absurd h1 h2
    · rcases regionOf_cases x with g | g | g | g | g | g | g | g | g | g | g | g | g <;> first | exact g.2.2 | omega
  rcases hr with ⟨r, hr⟩ | hr
  · have : ¬ p.DataReadable x := fun g => by simp [h.mpr g] at hr
    simp only [writeBar, hr, reduceCtorEq, false_iff]
    exact fun g => this (.inl g)
  · by_cases hm : p.DataRam x
    · simp [writeBar, hr, hb hm, hm]
    · simp [writeBar, hr, hd (h.mp hr) hm, hm]

end Sys2Proof.Machine
end

