-- ==== Sys2Proof/Laws/Access.lean ====
section
/-! SUPPORT. What a load and a store can do, said once (20 R131, R146), and what a register read and write can do. -/

namespace Sys2Proof.Machine

/-! ### Bytes and words (20 R131) -/

theorem splitBytes_succ (v : Word) (n : Nat) :
    splitBytes v (n + 1) = v.extractLsb' 0 8 :: splitBytes (v >>> 8) n := by
  simp only [splitBytes, List.range_succ_eq_map, List.map_cons, List.map_map, Nat.mul_zero, List.cons.injEq, true_and]
  apply List.map_congr_left
  intro k _
  apply BitVec.eq_of_getLsbD_eq
  intro i hi
  simp [Nat.mul_add, Nat.add_comm, Nat.add_left_comm]

/-- The bytes of a word make the word again. -/
theorem joinBytes_splitBytes (v : Word) (n : Nat) (h : v.toNat < 2 ^ (8 * n)) : joinBytes (splitBytes v n) = v := by
  induction n generalizing v with
  | zero =>
    have h : v = 0#32 := BitVec.eq_of_toNat_eq (by simpa using h)
    rw [h]; rfl
  | succ n ih =>
    rw [splitBytes_succ, joinBytes, ih]
    · apply BitVec.eq_of_getLsbD_eq
      intro i hi
      by_cases h8 : i < 8
      · simp [hi, h8]
      · simp [hi, h8, show 8 + (i - 8) = i by omega]
    · rw [BitVec.toNat_ushiftRight, Nat.shiftRight_eq_div_pow, Nat.div_lt_iff_lt_mul (by decide), ← Nat.pow_add]
      rwa [show 8 * n + 8 = 8 * (n + 1) by omega]

/-- The bytes of the word that bytes make are the bytes. -/
theorem joinBytes_byte (bs : List Byte) (k : Nat) (h : k < bs.length) (h4 : bs.length ≤ 4) :
    (joinBytes bs).extractLsb' (8 * k) 8 = bs[k] := by
  induction bs generalizing k with
  | nil => simp at h
  | cons x xs ih =>
    simp only [List.length_cons] at h h4
    cases k with
    | zero =>
      apply BitVec.eq_of_getLsbD_eq
      intro i hi
      simp [joinBytes, hi, show i < 32 by omega]
    | succ k =>
      have := ih k (by omega) (by omega)
      rw [List.getElem_cons_succ, ← this]
      apply BitVec.eq_of_getLsbD_eq
      intro i hi
      have e : x.getLsbD (8 * (k + 1) + i) = false := BitVec.getLsbD_of_ge _ _ (by omega)
      simp [joinBytes, hi, e, show 8 * (k + 1) + i - 8 = 8 * k + i by omega, show 8 * (k + 1) + i < 32 by omega,
        show ¬ 8 * (k + 1) + i < 8 by omega]
      rw [BitVec.getLsbD_eq_getElem]

theorem joinBytes_lt (bs : List Byte) (h4 : bs.length ≤ 4) : (joinBytes bs).toNat < 2 ^ (8 * bs.length) := by
  induction bs with
  | nil => simp [joinBytes]
  | cons x xs ih =>
    simp only [List.length_cons] at h4 ⊢
    have := ih (by omega)
    rw [joinBytes, BitVec.toNat_or]
    apply Nat.or_lt_two_pow
    · rw [BitVec.toNat_shiftLeft, Nat.shiftLeft_eq]
      calc _ ≤ (joinBytes xs).toNat * 2 ^ 8 := Nat.mod_le _ _
        _ < 2 ^ (8 * xs.length) * 2 ^ 8 := by omega
        _ = _ := by rw [← Nat.pow_add]; congr 1
    · rw [BitVec.toNat_setWidth]
      calc _ ≤ x.toNat := Nat.mod_le _ _
        _ < 2 ^ 8 := x.isLt
        _ ≤ _ := Nat.pow_le_pow_right (by decide) (by omega)

theorem Size.bytes_cases (z : Size) : z.bytes = 1 ∨ z.bytes = 2 ∨ z.bytes = 4 := by cases z <;> simp [Size.bytes]

theorem Size.bytes_pos (z : Size) : 0 < z.bytes := by cases z <;> decide

theorem Size.bytes_le (z : Size) : z.bytes ≤ 4 := by cases z <;> decide

/-! ### Reachability -/

theorem spanBar_none (bar : Nat → Option Refusal) (a n : Nat) :
    spanBar bar a n = none ↔ ∀ k, k < n → bar (a + k) = none := by
  simp [spanBar, span, List.findSome?_eq_none_iff]

theorem Platform.DataRam.lt {p : Platform} {x : Nat} (h : p.DataRam x) : x < 0xFFC00000 := by
  unfold Platform.DataRam at h; omega

theorem Platform.DataReadable.lt {p : Platform} {x : Nat} (h : p.DataReadable x) : x < 0xFFC00000 := by
  rcases h with h | h
  · exact h.lt
  · omega

/-- An aligned access that starts below the MMRs ends below them. -/
theorem aligned_below (a : Nat) (z : Size) (h : a % z.bytes = 0) (ha : a < 0xFFC00000) (k : Nat) (hk : k < z.bytes) :
    a + k < 0xFFC00000 := by
  rcases z.bytes_cases with e | e | e <;> rw [e] at h hk <;> omega

/-! ### Loads -/

/-- The bytes held and the word read. -/
theorem State.holds_readBytes (s : State) (a n : Nat) (v : Word) (hv : v.toNat < 2 ^ (8 * n)) (h : s.Holds a n v) :
    s.mem.readBytes a n = some (splitBytes v n) ∧ joinBytes (splitBytes v n) = v := by
  refine ⟨?_, joinBytes_splitBytes v n hv⟩
  rw [Memory.readBytes_some]
  refine ⟨by simp, fun k hk => ?_⟩
  rw [splitBytes_get]
  exact h k (by simpa using hk)

/-- A load of memory that can be done is done (20 R146). -/
theorem memRead_loadsRam (s : State) (a : Word) (z : Size) (v : Word) (h : s.LoadsRam a z.bytes v) :
    memRead s a z = .ok (v, s) := by
  obtain ⟨ha, hr, hh, hv⟩ := h
  have hlt : a.toNat < 0xFFC00000 := by simpa using (hr 0 z.bytes_pos).lt
  obtain ⟨h1, h2⟩ := s.holds_readBytes _ _ _ hv hh
  have hb : spanBar (readBar s.platform) a.toNat z.bytes = none := by
    rw [spanBar_none]
    intro k hk
    exact (readBar_none _ _ (aligned_below _ _ ha hlt k hk)).mpr (hr k hk)
  unfold memRead
  rw [if_neg (by simp [inMmrSpace]; omega), if_neg (by simpa using ha), hb]
  simp only [h1, h2]

/-- The register at its own address (10 R74, R75). -/
theorem ofAddr_mmrAddress (m : CoreMmr) : CoreMmr.ofAddr (mmrAddress m) = some m := by
  cases m with
  | evt k => revert k; decide
  | _ => decide

theorem mmrAddress_range (m : CoreMmr) :
    0xFFC00000 ≤ mmrAddress m ∧ mmrAddress m < 2 ^ 32 ∧ mmrAddress m % 4 = 0 := by
  cases m with
  | evt k => revert k; decide
  | _ => decide

theorem mmrTarget_mmrAddress (a : Word) (m : CoreMmr) (h : a.toNat = mmrAddress m) : mmrTarget a .word = .ok m := by
  unfold mmrTarget
  rw [h, ofAddr_mmrAddress]
  simp [(mmrAddress_range m).2.2]

/-- A load of a register that gives no free value (10 R74, R75). -/
theorem State.readMmr_value (s : State) (m : CoreMmr) (h : ¬ (m = .tcount ∧ s.timer.runs = true)) :
    s.readMmr m = (s.mmrValue m, s) := by
  cases m <;> simp_all [State.readMmr, State.mmrValue, State.getEvt]

/-- A load that can be done is done (20 R137, R146). -/
theorem memRead_loads (s : State) (a : Word) (z : Size) (v : Word) (h : s.Loads a z.bytes v) :
    memRead s a z = .ok (v, s) := by
  rcases h with h | ⟨hm, hn, m, ha, rfl, hd⟩
  · exact memRead_loadsRam s a z v h
  · have hz : z = .word := by cases z <;> simp_all [Size.bytes]
    have hr := mmrAddress_range m
    unfold memRead
    rw [if_pos (by simp [inMmrSpace]; omega)]
    split
    · contradiction
    all_goals rw [hz, mmrTarget_mmrAddress a m ha, Res.ok_bind, s.readMmr_value m hd]

/-- Every load that gives a value (20 R137, R146). -/
theorem memRead_ok (s t : State) (a : Word) (z : Size) (v : Word) (h : memRead s a z = .ok (v, t)) :
    (0xFFC00000 ≤ a.toNat ∧ s.mode ≠ .user ∧ ∃ r, mmrTarget a z = .ok r ∧ s.readMmr r = (v, t)) ∨
    (t = s ∧ s.LoadsRam a z.bytes v) := by
  unfold memRead at h
  split at h
  · rename_i hm
    left
    refine ⟨by simpa [inMmrSpace] using hm, ?_⟩
    split at h
    · cases h
    all_goals
      rename_i hmode
      obtain ⟨r, h1, h2⟩ := (Res.bind_ok _ _ _).mp h
      exact ⟨by simp [hmode], r, h1, by injection h2⟩
  · rename_i hm
    right
    have hlt : a.toNat < 0xFFC00000 := by simpa [inMmrSpace] using hm
    split at h
    · cases h
    · rename_i ha
      have ha : a.toNat % z.bytes = 0 := by simpa using ha
      split at h
      · cases h
      · rename_i hb
        rw [spanBar_none] at hb
        split at h
        · rename_i bs hbs
          simp only [Res.ok.injEq, Prod.mk.injEq] at h
          obtain ⟨rfl, rfl⟩ := h
          rw [Memory.readBytes_some] at hbs
          obtain ⟨hl, hg⟩ := hbs
          have h4 : bs.length ≤ 4 := hl ▸ z.bytes_le
          refine ⟨rfl, ha, fun k hk => (readBar_none _ _ (aligned_below _ _ ha hlt k hk)).mp (hb k hk), ?_, ?_⟩
          · intro k hk
            rw [joinBytes_byte bs k (by omega) h4]
            exact hg k (by omega)
          · rw [← hl]; exact joinBytes_lt bs h4
        · cases h

/-- Every load that raises an exception (20 R133, R137 (a), R146). -/
theorem memRead_trap (s : State) (a : Word) (z : Size) (c : Cause) (h : memRead s a z = .trap c) :
    (0xFFC00000 ≤ a.toNat ∧ s.mode = .user ∧ c = .illegalSupervisor) ∨
    (a.toNat < 0xFFC00000 ∧ a.toNat % z.bytes ≠ 0 ∧ c = .dataMisaligned a) := by
  unfold memRead at h
  split at h
  · rename_i hm
    left
    refine ⟨by simpa [inMmrSpace] using hm, ?_⟩
    split at h
    · rename_i hmode; exact ⟨hmode, by injection h with h; exact h.symm⟩
    all_goals
      unfold mmrTarget at h
      split at h
      · cases h
      · split at h <;> cases h
  · rename_i hm
    right
    refine ⟨by simpa [inMmrSpace] using hm, ?_⟩
    split at h
    · rename_i ha; exact ⟨ha, by injection h with h; exact h.symm⟩
    · split at h
      · cases h
      · split at h <;> cases h

/-! ### Stores -/

theorem State.putBytes_stored (s : State) (a : Nat) (z : Size) (v : Word) : s.Stored (s.putBytes a z v) a z.bytes v := by
  refine ⟨fun k hk => ?_, fun x hx => ?_, fun x => ?_⟩
  · show (s.mem.writeBytes a (splitBytes v z.bytes)).read (a + k) = _
    rw [Memory.read_writeBytes_inside _ _ _ _ (by simpa using hk), splitBytes_get]
  · show (s.mem.writeBytes a (splitBytes v z.bytes)).read x = _
    rw [Memory.read_writeBytes_outside _ _ _ _ (by simpa using hx)]; rfl
  · show x ∈ s.stored.insertAll (span a z.bytes) ↔ _
    rw [AddrSet.mem_insertAll, mem_span]; exact or_comm

theorem fetched_any (s : State) (a n : Nat) :
    ((span a n).any (fun x => s.fetched.contains x)) = true ↔ ∃ k, k < n ∧ a + k ∈ s.fetched := by
  simp [span]

/-- A store that can be done is done (20 R146). -/
theorem memWrite_canStore (s : State) (a : Word) (z : Size) (v : Word) (h : s.CanStore a z.bytes) :
    memWrite s a z v = .ok (s.putBytes a.toNat z v) := by
  obtain ⟨ha, hr⟩ := h
  have hlt : a.toNat < 0xFFC00000 := by simpa using (hr 0 z.bytes_pos).1.lt
  have hb : spanBar (writeBar s.platform) a.toNat z.bytes = none := by
    rw [spanBar_none]
    intro k hk
    exact (writeBar_none _ _ (aligned_below _ _ ha hlt k hk)).mpr (hr k hk).1
  unfold memWrite
  rw [if_neg (by simp [inMmrSpace]; omega), if_neg (by simpa using ha), hb]
  simp only
  rw [if_neg]
  rw [fetched_any]
  rintro ⟨k, hk, hf⟩
  exact (hr k hk).2 hf

/-- The upper bits of a word, and its lower ones beside them. -/
theorem keepLow (k : Nat) (f v m : Word) (hm : ∀ i, i < 32 → m.getLsbD i = decide (i < k)) :
    (v &&& m) ||| (f &&& ~~~m) = BitVec.ofNat 32 (f.toNat / 2 ^ k * 2 ^ k + v.toNat % 2 ^ k) := by
  apply BitVec.eq_of_getLsbD_eq
  intro i hi
  rw [Nat.mul_comm, BitVec.getLsbD_ofNat, Nat.testBit_two_pow_mul_add _ (Nat.mod_lt _ (Nat.two_pow_pos k))]
  rw [BitVec.getLsbD_or, BitVec.getLsbD_and, BitVec.getLsbD_and, BitVec.getLsbD_not, hm i hi]
  by_cases h : i < k
  · simp [hi, h, Nat.testBit_mod_two_pow, BitVec.getLsbD]
  · simp [hi, h, Nat.testBit_div_two_pow, Nat.sub_add_cancel (Nat.not_lt.mp h), BitVec.getLsbD]

/-- The bits beside the lowest `k` are 0 exactly in a value below 2^k. -/
theorem above_zero (k : Nat) (v m : Word) (hm : ∀ i, i < 32 → m.getLsbD i = decide (i < k)) :
    v &&& ~~~m = 0#32 ↔ v.toNat < 2 ^ k := by
  constructor
  · intro h
    apply Nat.lt_pow_two_of_testBit
    intro i hi
    by_cases h32 : i < 32
    · have e := congrArg (fun w => w.getLsbD i) h
      simp only [BitVec.getLsbD_and, BitVec.getLsbD_not, hm i h32] at e
      simpa [h32, Nat.not_lt.mpr hi, ← BitVec.getLsbD_eq_getElem, BitVec.getLsbD] using e
    · exact v.getLsbD_of_ge i (Nat.not_lt.mp h32)
  · intro h
    apply BitVec.eq_of_getLsbD_eq
    intro i hi
    by_cases hk : i < k
    · simp [hi, hm i hi, hk]
    · have : v.getLsbD i = false :=
        Nat.testBit_lt_two_pow (Nat.lt_of_lt_of_le h (Nat.pow_le_pow_right (by decide) (Nat.not_lt.mp hk)))
      simp [this]

/-- What a register of `k` bits keeps of a store, and the free values taken. -/
theorem State.storedField_eq (s : State) (k : Nat) (m v : Word)
    (hm : ∀ i, i < 32 → m.getLsbD i = decide (i < k)) :
    s.storedField m v = (s.keptOf k v, { s with draws := s.draws + freeStores k v }) := by
  unfold State.storedField State.keptOf freeStores
  by_cases h : v.toNat < 2 ^ k
  · rw [if_pos ((above_zero k v m hm).mpr h), if_pos h, if_pos h]; rfl
  · rw [if_neg (fun e => h ((above_zero k v m hm).mp e)), if_neg h, if_neg h]
    exact Prod.ext (keepLow k _ v m hm) rfl

/-- A store to a register that takes the value (10 R74, R75, R83). -/
theorem State.writeMmr_accepts (s : State) (m : CoreMmr) (v : Word) (h : mmrAccepts m v) :
    s.writeMmr m v = .ok (s.withMmr m v) := by
  have hr : ∀ k r, v.toNat < 2 ^ k → (∀ i, i < k → r.getLsbD i = false) → v &&& r = 0#32 := by
    intro k r hv hz
    apply BitVec.eq_of_getLsbD_eq
    intro i _
    rw [BitVec.getLsbD_and]
    by_cases hi : i < k
    · simp [hz i hi]
    · have : v.getLsbD i = false := by
        rw [BitVec.getLsbD, Nat.testBit_lt_two_pow (Nat.lt_of_lt_of_le hv (Nat.pow_le_pow_right (by decide) (by omega)))]
      simp [this]
  cases m <;> simp only [mmrAccepts] at h <;>
    first
    | rfl
    | (rw [State.writeMmr, s.storedField_eq 4 _ v (by decide)]; rfl)
    | (rw [State.writeMmr, checkReserved, if_neg (by rw [hr _ _ h (by decide)]; simp)]; rfl)

/-- A store to a register is done (20 R137). -/
theorem memWrite_mmr (s : State) (a v : Word) (m : CoreMmr) (hm : s.mode ≠ .user) (ha : a.toNat = mmrAddress m)
    (hv : mmrAccepts m v) : memWrite s a .word v = .ok (s.withMmr m v) := by
  have hr := mmrAddress_range m
  unfold memWrite
  rw [if_pos (by simp [inMmrSpace]; omega)]
  split
  · contradiction
  all_goals rw [mmrTarget_mmrAddress a m ha, Res.ok_bind, s.writeMmr_accepts m v hv]

/-- Every store that is done (20 R137, R146). -/
theorem memWrite_ok (s t : State) (a : Word) (z : Size) (v : Word) (h : memWrite s a z v = .ok t) :
    (0xFFC00000 ≤ a.toNat ∧ s.mode ≠ .user ∧ ∃ r, mmrTarget a z = .ok r ∧ s.writeMmr r v = .ok t) ∨
    (t = s.putBytes a.toNat z v ∧ s.CanStore a z.bytes) := by
  unfold memWrite at h
  split at h
  · rename_i hm
    left
    refine ⟨by simpa [inMmrSpace] using hm, ?_⟩
    split at h
    · cases h
    all_goals
      rename_i hmode
      obtain ⟨r, h1, h2⟩ := (Res.bind_ok _ _ _).mp h
      exact ⟨by simp [hmode], r, h1, h2⟩
  · rename_i hm
    right
    have hlt : a.toNat < 0xFFC00000 := by simpa [inMmrSpace] using hm
    split at h
    · cases h
    · rename_i ha
      have ha : a.toNat % z.bytes = 0 := by simpa using ha
      split at h
      · cases h
      · rename_i hb
        rw [spanBar_none] at hb
        split at h
        · cases h
        · rename_i hf
          rw [fetched_any] at hf
          injection h with h
          refine ⟨h.symm, ha, fun k hk => ⟨(writeBar_none _ _ (aligned_below _ _ ha hlt k hk)).mp (hb k hk), ?_⟩⟩
          exact fun hm => hf ⟨k, hk, hm⟩

/-- Every store that raises an exception (20 R133, R137 (a), R146). -/
theorem memWrite_trap (s : State) (a : Word) (z : Size) (v : Word) (c : Cause) (h : memWrite s a z v = .trap c) :
    (0xFFC00000 ≤ a.toNat ∧ s.mode = .user ∧ c = .illegalSupervisor) ∨
    (a.toNat < 0xFFC00000 ∧ a.toNat % z.bytes ≠ 0 ∧ c = .dataMisaligned a) := by
  unfold memWrite at h
  split at h
  · rename_i hm
    left
    refine ⟨by simpa [inMmrSpace] using hm, ?_⟩
    split at h
    · rename_i hmode; exact ⟨hmode, by injection h with h; exact h.symm⟩
    all_goals
      unfold mmrTarget at h
      split at h
      · cases h
      · split at h
        · rename_i r _ _
          simp only [Res.ok_bind] at h
          cases r <;> simp only [State.writeMmr, checkReserved] at h <;> (try split at h) <;> cases h
        · cases h
  · rename_i hm
    right
    refine ⟨by simpa [inMmrSpace] using hm, ?_⟩
    split at h
    · rename_i ha; exact ⟨ha, by injection h with h; exact h.symm⟩
    · split at h
      · cases h
      · split at h <;> cases h

end Sys2Proof.Machine
end

