-- ==== Sys2Proof/Laws/Agents.lean ====
section
/-! SUPPORT. What a boundary and a turn of the core can do, said once (00 R21, R22; 42 R300; 60 R442). -/

namespace Sys2Proof.Machine

/-! ### The boundary -/

/-- Nothing arrives. -/
theorem State.boundary_nil (s : State) (h : s.arrivals = []) : s.boundary = s := by
  cases s; subst h; rfl

/-- One entry of `arrivals` is used up. -/
theorem State.boundary_cons (s : State) (e : Arrival) (rest : List Arrival) (h : s.arrivals = e :: rest) :
    s.boundary = { (s.nmiPin e).timerFires e with arrivals := rest } := by
  cases s; subst h; rfl

/-- Every field but ILAT, the timer and `arrivals` is as it was. -/
theorem State.boundary_frame (s : State) :
    s.boundary =
      { s with ilat := s.boundary.ilat, timer := s.boundary.timer, arrivals := s.boundary.arrivals } := by
  cases h : s.arrivals with
  | nil => rw [s.boundary_nil h]
  | cons e rest =>
    rw [s.boundary_cons e rest h]
    rfl

@[simp] theorem State.boundary_r (s : State) : s.boundary.r = s.r := by rw [s.boundary_frame]
@[simp] theorem State.boundary_p (s : State) : s.boundary.p = s.p := by rw [s.boundary_frame]
@[simp] theorem State.boundary_spSup (s : State) : s.boundary.spSup = s.spSup := by rw [s.boundary_frame]
@[simp] theorem State.boundary_usp (s : State) : s.boundary.usp = s.usp := by rw [s.boundary_frame]
@[simp] theorem State.boundary_i (s : State) : s.boundary.i = s.i := by rw [s.boundary_frame]
@[simp] theorem State.boundary_m (s : State) : s.boundary.m = s.m := by rw [s.boundary_frame]
@[simp] theorem State.boundary_b (s : State) : s.boundary.b = s.b := by rw [s.boundary_frame]
@[simp] theorem State.boundary_l (s : State) : s.boundary.l = s.l := by rw [s.boundary_frame]
@[simp] theorem State.boundary_a0 (s : State) : s.boundary.a0 = s.a0 := by rw [s.boundary_frame]
@[simp] theorem State.boundary_a1 (s : State) : s.boundary.a1 = s.a1 := by rw [s.boundary_frame]
@[simp] theorem State.boundary_astat (s : State) : s.boundary.astat = s.astat := by rw [s.boundary_frame]
@[simp] theorem State.boundary_pc (s : State) : s.boundary.pc = s.pc := by rw [s.boundary_frame]
@[simp] theorem State.boundary_rets (s : State) : s.boundary.rets = s.rets := by rw [s.boundary_frame]
@[simp] theorem State.boundary_reti (s : State) : s.boundary.reti = s.reti := by rw [s.boundary_frame]
@[simp] theorem State.boundary_retx (s : State) : s.boundary.retx = s.retx := by rw [s.boundary_frame]
@[simp] theorem State.boundary_retn (s : State) : s.boundary.retn = s.retn := by rw [s.boundary_frame]
@[simp] theorem State.boundary_rete (s : State) : s.boundary.rete = s.rete := by rw [s.boundary_frame]
@[simp] theorem State.boundary_loop0 (s : State) : s.boundary.loop0 = s.loop0 := by rw [s.boundary_frame]
@[simp] theorem State.boundary_loop1 (s : State) : s.boundary.loop1 = s.loop1 := by rw [s.boundary_frame]
@[simp] theorem State.boundary_seqstat (s : State) : s.boundary.seqstat = s.seqstat := by rw [s.boundary_frame]
@[simp] theorem State.boundary_syscfg (s : State) : s.boundary.syscfg = s.syscfg := by rw [s.boundary_frame]
@[simp] theorem State.boundary_emudat (s : State) : s.boundary.emudat = s.emudat := by rw [s.boundary_frame]
@[simp] theorem State.boundary_evt (s : State) : s.boundary.evt = s.evt := by rw [s.boundary_frame]
@[simp] theorem State.boundary_imask (s : State) : s.boundary.imask = s.imask := by rw [s.boundary_frame]
@[simp] theorem State.boundary_ipend (s : State) : s.boundary.ipend = s.ipend := by rw [s.boundary_frame]
@[simp] theorem State.boundary_iprio (s : State) : s.boundary.iprio = s.iprio := by rw [s.boundary_frame]
@[simp] theorem State.boundary_sys (s : State) : s.boundary.sys = s.sys := by rw [s.boundary_frame]
@[simp] theorem State.boundary_idle (s : State) : s.boundary.idle = s.idle := by rw [s.boundary_frame]
@[simp] theorem State.boundary_mem (s : State) : s.boundary.mem = s.mem := by rw [s.boundary_frame]
@[simp] theorem State.boundary_platform (s : State) : s.boundary.platform = s.platform := by rw [s.boundary_frame]
@[simp] theorem State.boundary_fetched (s : State) : s.boundary.fetched = s.fetched := by rw [s.boundary_frame]
@[simp] theorem State.boundary_stored (s : State) : s.boundary.stored = s.stored := by rw [s.boundary_frame]
@[simp] theorem State.boundary_draws (s : State) : s.boundary.draws = s.draws := by rw [s.boundary_frame]

@[simp] theorem State.boundary_mode (s : State) : s.boundary.mode = s.mode := State.mode_congr s.boundary_ipend

/-! ### The turn of the core -/

/-- The core is stuck exactly in the Idle state without an event to accept (42 R346). -/
theorem State.coreMove_stuck (s : State) : s.coreMove = .stuck ↔ s.idle = true ∧ s.acceptedEvent = none := by
  unfold State.coreMove
  cases s.acceptedEvent with
  | some k => simp
  | none =>
    cases s.idle with
    | true => simp
    | false => cases s.runInstr <;> simp

/-- The turn of the core is an event entry, a stay in the Idle state, or the instruction at pc. -/
theorem State.coreTurn_cases (s : State) :
    (∃ k, s.acceptedEvent = some k ∧ s.coreTurn = .next (s.enterEvent k s.pc)) ∨
    (s.acceptedEvent = none ∧ s.idle = true ∧ s.coreTurn = .next s) ∨
    (s.acceptedEvent = none ∧ s.idle = false ∧ s.coreTurn = s.runInstr) := by
  cases ha : s.acceptedEvent with
  | some k => exact .inl ⟨k, rfl, by simp only [State.coreTurn, Agent.move, State.coreMove, ha]⟩
  | none =>
    cases hi : s.idle with
    | true => exact .inr (.inl ⟨rfl, rfl, by simp [State.coreTurn, Agent.move, State.coreMove, ha, hi]⟩)
    | false =>
      refine .inr (.inr ⟨rfl, rfl, ?_⟩)
      cases hr : s.runInstr <;> simp [State.coreTurn, Agent.move, State.coreMove, ha, hi, hr]

end Sys2Proof.Machine
end

