-- ==== Sys2Proof/Laws/Complete.lean ====
section
/-! SUPPORT. From what an operation answers to the words of the claims: when an instruction completes. -/

namespace Sys2Proof.Machine

/-- A sequential instruction completes with its effects `u`. -/
theorem completes_retire (s u : State) (len : Nat) (h : s.Fits len) (hp : u.pc = s.pc) (hm : u.mem = s.mem) :
    Completes (retire len u) s u len := by
  obtain ⟨t, h1, h2⟩ := retire_fits u len (by unfold State.Fits at *; rwa [hp])
  refine ⟨t, h1, h2, fun x => ?_⟩
  have e : t.mem = u.mem := by rw [h2.1]
  simp only [State.byteAt, e, hm]

/-- A store completes: `t` is the state after the store and the other effects, which are those of `u`. -/
theorem completesStoring_retire (s u t : State) (len : Nat) (a n : Nat) (v : Word) (h : s.Fits len)
    (ht : t = { u with mem := t.mem, stored := t.stored }) (hp : u.pc = s.pc) (hs : s.Stored t a n v) :
    CompletesStoring (retire len t) s u len a n v := by
  have hpt : t.pc = s.pc := by rw [ht]; exact hp
  obtain ⟨t', h1, h2⟩ := retire_fits t len (by unfold State.Fits at *; rwa [hpt])
  have em : t'.mem = t.mem := by rw [h2.1]
  have es : t'.stored = t.stored := by rw [h2.1]
  refine ⟨t', h1, by rw [em, es, ← ht]; exact h2, ?_⟩
  simp only [State.Stored, State.Holds, State.byteAt, em, es]
  exact hs

/-- A load completes (43). -/
theorem load_completes (s : State) (len : Nat) (a : Word) (z : Size) (v : Word) (k : Word → State → State)
    (h : s.Fits len) (hl : s.Loads a z.bytes v) (hp : (k v s).pc = s.pc) (hm : (k v s).mem = s.mem) :
    Completes (load s len a z k) s (k v s) len := by
  unfold load
  rw [memRead_loads s a z v hl]
  exact completes_retire s _ len h hp hm

/-- A store to memory completes (43). `k` moves a pointer, so it treats memory as it finds it. -/
theorem store_completes (s u : State) (len : Nat) (a : Word) (z : Size) (v : Word) (k : State → State)
    (h : s.Fits len) (hc : s.CanStore a z.bytes) (hp : u.pc = s.pc)
    (hk : ∀ m st, k { s with mem := m, stored := st } = { u with mem := m, stored := st }) :
    CompletesStoring (store s len a z v k) s u len a.toNat z.bytes v := by
  have e : k (s.putBytes a.toNat z v) =
      { u with mem := (s.putBytes a.toNat z v).mem, stored := (s.putBytes a.toNat z v).stored } := hk _ _
  unfold store
  rw [memWrite_canStore s a z v hc]
  show CompletesStoring (retire len (k (s.putBytes a.toNat z v))) _ _ _ _ _ _
  rw [e]
  exact completesStoring_retire s u _ len _ _ _ h rfl hp (s.putBytes_stored a.toNat z v)

@[simp] theorem State.withMmr_pc (s : State) (m : CoreMmr) (v : Word) : (s.withMmr m v).pc = s.pc := by cases m <;> rfl

@[simp] theorem State.withMmr_mem (s : State) (m : CoreMmr) (v : Word) : (s.withMmr m v).mem = s.mem := by
  cases m <;> rfl

/-- A store of a word completes, to memory or to a memory-mapped register (20 R146). -/
theorem store_word (s u : State) (len : Nat) (a v : Word) (k : State → State) (h : s.Fits len) (hp : u.pc = s.pc)
    (hm : u.mem = s.mem) (hk : ∀ m st, k { s with mem := m, stored := st } = { u with mem := m, stored := st })
    (hr : ∀ m w, k (s.withMmr m w) = u.withMmr m w) : StoresWord (store s len a .word v k) s u len a v := by
  refine ⟨fun hc => store_completes s u len a .word v k h hc hp hk, fun m hs ha hv => ?_⟩
  unfold store
  rw [memWrite_mmr s a v m hs ha hv]
  show Completes (retire len (k _)) _ _ _
  rw [hr]
  exact completes_retire s _ len h (by simpa using hp) (by simpa using hm)

end Sys2Proof.Machine
end

