-- ==== Sys2Proof/Laws/FirstAccess.lean ====
section
/-! SUPPORT. What every instruction with a data access begins with: the access `dataAccess` names, a load or a store as
`firstStored` says. What follows the access is in the rest `k`. -/

namespace Sys2Proof.Machine

/-- A register the mode may name passes the privilege check (41 R261). -/
theorem checkPrivilege_mayName (s : State) (r : Reg) (h : s.mayName r = true) : checkPrivilege s r = .ok () := by
  unfold checkPrivilege
  rw [if_neg]
  rintro ⟨h1, h2⟩
  simp [State.mayName, h1, h2] at h

theorem Res.bind_assoc {α β γ : Type} (x : Res α) (k : α → Res β) (l : β → Res γ) :
    (x.bind k).bind l = x.bind (fun a => (k a).bind l) := by cases x <;> rfl

/-- A register as a source, where it is not EMUDAT (41 R262, R263). -/
theorem readReg_valueOf (s : State) (r : Reg) (h : r ≠ .emudat) :
    readReg s r = .ok (s.valueOf r, s.afterRead r) := by
  cases r
  case emudat => exact absurd rfl h
  case lc k => cases k <;> rfl
  case lt k => cases k <;> rfl
  case lb k => cases k <;> rfl
  case a0w | a1w =>
    simp only [readReg, State.valueOf, accW, State.afterRead]
    congr 2
  all_goals rfl

theorem State.afterRead_draws (s : State) (r : Reg) : s.afterRead r = { s with draws := (s.afterRead r).draws } := by
  unfold State.afterRead; split <;> rfl

theorem dregsFrom_cons (d : DReg) : ∃ l, dregsFrom d = d :: l := by cases d <;> exact ⟨_, rfl⟩

theorem pregsFrom_cons (p : PReg) (h : p.numbered = true) : ∃ l, pregsFrom p = p :: l := by
  cases p <;> first | exact ⟨_, rfl⟩ | cases h

theorem zext_highHalf (w : Word) : zext (highHalf w) = w >>> 16 := by
  apply BitVec.eq_of_getLsbD_eq
  intro i hi
  simp only [zext, highHalf, BitVec.getLsbD_setWidth, BitVec.getLsbD_extractLsb', BitVec.getLsbD_ushiftRight, hi,
    decide_true, Bool.true_and]
  by_cases h : i < 16
  · simp [h]
  · simp [h, BitVec.getLsbD_of_ge w (16 + i) (by omega)]

/-- The instruction begins with a load of `n` bytes at `a`. -/
def BeginsLoad (o : Result) (s : State) (a : Word) (n : Nat) : Prop :=
  ∃ len z k, Size.bytes z = n ∧ o = finish s len ((memRead s a z).bind k)

/-- The instruction begins with a store of `n` bytes of `v` at `a`; a free value taken before it changes nothing else. -/
def BeginsStore (o : Result) (s : State) (a : Word) (n : Nat) (v : Word) : Prop :=
  ∃ len z d k, Size.bytes z = n ∧ o = finish s len ((memWrite { s with draws := d } a z v).bind k)

theorem Size.bytes_inj {y z : Size} (h : y.bytes = z.bytes) : y = z := by
  revert h; cases y <;> cases z <;> decide

/-- What stops the first load stops the instruction; an exception is taken in the state before it (42 R300 step 4). -/
theorem BeginsLoad.stops {o : Result} {s : State} {a : Word} {z : Size} (h : BeginsLoad o s a z.bytes) :
    (∀ r, memRead s a z = .refused r → o = .refused r) ∧ (∀ f, memRead s a z = .fault f → o = .fault f) ∧
    (∀ c, memRead s a z = .trap c → o = takeException s c) := by
  obtain ⟨len, y, k, hz, e⟩ := h
  cases Size.bytes_inj hz
  exact ⟨fun r h => by rw [e, h]; rfl, fun f h => by rw [e, h]; rfl, fun c h => by rw [e, h]; rfl⟩

/-- What stops the first store stops the instruction; an exception is taken in the state before it. -/
theorem BeginsStore.stops {o : Result} {s : State} {a v : Word} {z : Size} (h : BeginsStore o s a z.bytes v) :
    ∃ d, (∀ r, memWrite { s with draws := d } a z v = .refused r → o = .refused r) ∧
      (∀ c, memWrite { s with draws := d } a z v = .trap c → o = takeException s c) := by
  obtain ⟨len, y, d, k, hz, e⟩ := h
  cases Size.bytes_inj hz
  exact ⟨d, fun r h => by rw [e, h]; rfl, fun c h => by rw [e, h]; rfl⟩

/-- The widths that `dataAccess` names are those of `Size`. -/
theorem BeginsLoad.width {o : Result} {s : State} {a : Word} {n : Nat} (h : BeginsLoad o s a n) :
    ∃ z, Size.bytes z = n := let ⟨_, z, _, hz, _⟩ := h; ⟨z, hz⟩

theorem BeginsStore.width {o : Result} {s : State} {a v : Word} {n : Nat} (h : BeginsStore o s a n v) :
    ∃ z, Size.bytes z = n := let ⟨_, z, _, _, hz, _⟩ := h; ⟨z, hz⟩

/-- A pop multiple begins at SP (43 R385). -/
theorem popMultiple_begins (s : State) (rs : List DPReg) (h : rs ≠ []) : BeginsLoad (popMultiple s rs) s s.sp 4 := by
  unfold popMultiple
  cases hr : rs.reverse with
  | nil => exact absurd (List.reverse_eq_nil_iff.mp hr) h
  | cons r rest => exact ⟨2, .word, _, rfl, by rw [popList, Res.bind_assoc]⟩

/-- A push multiple begins below SP with the first register of its list (43 R384). -/
theorem pushMultiple_begins (s : State) (r : DPReg) (rs : List DPReg) :
    BeginsStore (pushMultiple s (r :: rs)) s (s.sp - 4#32) 4 (s.getDP r) :=
  ⟨2, .word, s.draws, _, rfl, by rw [pushMultiple, List.map_cons, pushList, Res.bind_assoc]⟩

/-- A load instruction begins with its first access. -/
theorem exec_load (i : Instr) (s : State) (a : Word) (n : Nat) (h : dataAccess s i = some (a, n))
    (hs : firstStored s i = none) : BeginsLoad (exec i s) s a n := by
  cases i
  case ldPInc pr pp =>
    obtain ⟨hp, h⟩ := Option.ite_none_left_eq_some.mp h
    cases h
    exact ⟨2, .word, _, rfl, if_neg hp⟩
  case ldPDec pr pp =>
    obtain ⟨hp, h⟩ := Option.ite_none_left_eq_some.mp h
    cases h
    exact ⟨2, .word, _, rfl, if_neg hp⟩
  case ldPmod rr pp pi =>
    obtain ⟨hp, h⟩ := Option.ite_none_left_eq_some.mp h
    cases h
    exact ⟨2, .word, _, rfl, if_neg hp⟩
  case ldPmodHalfZ rr pp pi =>
    obtain ⟨hp, h⟩ := Option.ite_none_left_eq_some.mp h
    cases h
    exact ⟨2, .half, _, rfl, if_neg hp⟩
  case ldPmodHalfX rr pp pi =>
    obtain ⟨hp, h⟩ := Option.ite_none_left_eq_some.mp h
    cases h
    exact ⟨2, .half, _, rfl, if_neg hp⟩
  case popReg r =>
    obtain ⟨⟨h1, h2, h3⟩, h⟩ := Option.ite_none_right_eq_some.mp h
    cases h
    have e : exec (.popReg r) s = finish s 2 ((memRead s s.sp .word).bind fun x =>
        (writeReg x.2 r x.1).bind fun t => .ok ((t.setSp (s.sp + 4#32)).afterPop r)) := by
      show execPopReg r s = _
      unfold execPopReg
      rw [h1, if_neg (by decide), if_neg h2, checkPrivilege_mayName s r h3, Res.ok_bind]
    exact ⟨2, .word, _, rfl, e⟩
  case popMultDP dr pr =>
    obtain ⟨hp, h⟩ := Option.ite_none_right_eq_some.mp h
    cases h
    obtain ⟨l, hl⟩ := dregsFrom_cons dr
    show BeginsLoad (numberedOnly pr _) _ _ _
    rw [numberedOnly, if_pos hp]
    exact popMultiple_begins s _ (by simp [multRegs, hl])
  case popMultP pr =>
    obtain ⟨hp, h⟩ := Option.ite_none_right_eq_some.mp h
    cases h
    obtain ⟨l, hl⟩ := pregsFrom_cons pr hp
    show BeginsLoad (numberedOnly pr _) _ _ _
    rw [numberedOnly, if_pos hp]
    exact popMultiple_begins s _ (by simp [multRegs, hl])
  case popMultD dr =>
    cases h
    obtain ⟨l, hl⟩ := dregsFrom_cons dr
    exact popMultiple_begins s _ (by simp [multRegs, hl])
  all_goals first
    | (cases h; done)
    | (cases hs; done)
    | (cases h; exact ⟨_, .word, _, rfl, rfl⟩)
    | (cases h; exact ⟨_, .half, _, rfl, rfl⟩)
    | (cases h; exact ⟨_, .byte, _, rfl, rfl⟩)

/-- A store instruction begins with its first access. -/
theorem exec_store (i : Instr) (s : State) (a v : Word) (n : Nat) (h : dataAccess s i = some (a, n))
    (hs : firstStored s i = some v) : BeginsStore (exec i s) s a n v := by
  cases i
  case stPmod rr pp pi =>
    obtain ⟨hp, h⟩ := Option.ite_none_left_eq_some.mp h
    cases h
    cases hs
    exact ⟨2, .word, s.draws, _, rfl, if_neg hp⟩
  case stPmodHi rr pp pi =>
    cases h
    cases hs
    rw [← zext_highHalf]
    exact ⟨2, .half, s.draws, _, rfl, rfl⟩
  case stIHiInc rr ii =>
    cases h
    cases hs
    rw [← zext_highHalf]
    exact ⟨2, .half, s.draws, _, rfl, rfl⟩
  case stIHiDec rr ii =>
    cases h
    cases hs
    rw [← zext_highHalf]
    exact ⟨2, .half, s.draws, _, rfl, rfl⟩
  case stIHiInd rr ii =>
    cases h
    cases hs
    rw [← zext_highHalf]
    exact ⟨2, .half, s.draws, _, rfl, rfl⟩
  case pushReg r =>
    obtain ⟨⟨h1, h2, h3⟩, h⟩ := Option.ite_none_right_eq_some.mp h
    cases h
    cases hs
    have e : exec (.pushReg r) s = finish s 2 ((memWrite (s.afterRead r) (s.sp - 4#32) .word (s.valueOf r)).bind fun t =>
        .ok ((t.setSp (s.sp - 4#32)).afterPush r)) := by
      show execPushReg r s = _
      unfold execPushReg
      rw [h1, if_neg (by decide), if_neg h2, checkPrivilege_mayName s r h3, Res.ok_bind, readReg_valueOf s r h2,
        Res.ok_bind]
    rw [s.afterRead_draws r] at e
    exact ⟨2, .word, _, _, rfl, e⟩
  case pushMultDP dr pr =>
    obtain ⟨hp, h⟩ := Option.ite_none_right_eq_some.mp h
    cases h
    cases hs
    obtain ⟨l, hl⟩ := dregsFrom_cons dr
    show BeginsStore (numberedOnly pr _) _ _ _ _
    rw [numberedOnly, if_pos hp, multRegs, hl]
    exact pushMultiple_begins s (.d dr) _
  case pushMultP pr =>
    obtain ⟨hp, h⟩ := Option.ite_none_right_eq_some.mp h
    cases h
    cases hs
    obtain ⟨l, hl⟩ := pregsFrom_cons pr hp
    show BeginsStore (numberedOnly pr _) _ _ _ _
    rw [numberedOnly, if_pos hp, multRegs, hl]
    exact pushMultiple_begins s (.p pr) _
  case pushMultD dr =>
    cases h
    cases hs
    obtain ⟨l, hl⟩ := dregsFrom_cons dr
    show BeginsStore (pushMultiple s _) _ _ _ _
    rw [multRegs, hl]
    exact pushMultiple_begins s (.d dr) _
  all_goals first
    | (cases h; done)
    | (cases hs; done)
    | (cases h; cases hs; exact ⟨_, .word, s.draws, _, rfl, rfl⟩)
    | (cases h; cases hs; exact ⟨_, .half, s.draws, _, rfl, rfl⟩)
    | (cases h; cases hs; exact ⟨_, .byte, s.draws, _, rfl, rfl⟩)

end Sys2Proof.Machine
end

