-- ==== Sys2Proof/Laws/PerInstr.lean ====
section
/-! SUPPORT. A claim made for each instruction: its parcels are as many as its first parcel says (30 R171). -/

namespace Sys2Proof.Laws.EncodedLength

/-- There are as many parcels as the first one says (30 R171). -/
def Matches : List Parcel → Prop
  | [w] => lengthOf w = .two
  | [w, _] => lengthOf w = .four
  | _ => False

/-- The encoding of the instruction is as long as its first parcel says. -/
def Statement (i : Instr) : Prop := Matches (encode i)

/-- A first parcel of a 16-bit instruction: bits 15:14 are not 11 (30 R171). -/
def Short {n : Nat} (w : BitVec n) : Prop := (w.getLsbD 15 && w.getLsbD 14) = false

/-- A first parcel of a 32-bit instruction: bits 15:14 are 11, and bit 11 is 0 or bits 15:13 are 111 (30 R171). -/
def Long {n : Nat} (w : BitVec n) : Prop := (w.getLsbD 15 && w.getLsbD 14 && w.getLsbD 13) = true

theorem matches_two (w : Parcel) (h : Short w) : Matches [w] := by
  have e : fld w 14 2 ≠ 0b11#2 := by
    intro e
    have h0 : w.getLsbD 14 = true := by simpa [fld] using congrArg (fun x => x.getLsbD 0) e
    have h1 : w.getLsbD 15 = true := by simpa [fld] using congrArg (fun x => x.getLsbD 1) e
    unfold Short at h
    rw [h0, h1] at h
    contradiction
  show lengthOf w = .two
  unfold lengthOf
  rw [if_pos e]

theorem matches_four (w x : Parcel) (h : Long w) : Matches [w, x] := by
  simp only [Long, Bool.and_eq_true] at h
  obtain ⟨⟨h15, h14⟩, h13⟩ := h
  have e : fld w 14 2 = 0b11#2 := by
    apply BitVec.eq_of_getLsbD_eq
    intro i hi
    rcases i with _ | _ | i
    · simpa [fld] using h14
    · simpa [fld] using h15
    · omega
  have e' : fld w 13 3 = 0b111#3 := by
    apply BitVec.eq_of_getLsbD_eq
    intro i hi
    rcases i with _ | _ | _ | i
    · simpa [fld] using h13
    · simpa [fld] using h14
    · simpa [fld] using h15
    · omega
  show lengthOf w = .four
  unfold lengthOf
  rw [if_neg (by simp [e]), if_neg (by simp [e'])]

/-! ### The formats -/

theorem of_encProg (f p : BitVec 4) : Matches (encProg f p) :=
  have h : Short (0#8 ++ f ++ p) := by simp only [Short, BitVec.getLsbD_append]; rfl
  matches_two _ h

theorem of_encProg3 (f : BitVec 4) (n : BitVec 3) : Matches (encProg3 f n) :=
  have h : Short (0#8 ++ f ++ 0#1 ++ n) := by simp only [Short, BitVec.getLsbD_append]; rfl
  matches_two _ h

theorem of_encPushPop (wr : BitVec 1) (r : Reg) : Matches (encPushPop wr r) :=
  have h : Short (0x01#8 ++ 0#1 ++ wr ++ r.grp ++ r.num) := by simp only [Short, BitVec.getLsbD_append]; rfl
  matches_two _ h

theorem of_encCache (post : Bool) (op : BitVec 2) (p : PReg) : Matches (encCache post op p) :=
  have h : Short (0x02#8 ++ 0b01#2 ++ bitField post ++ op ++ p.code) := by simp only [Short, BitVec.getLsbD_append]; rfl
  matches_two _ h

theorem of_encCcReg (op : BitVec 2) (n : BitVec 3) : Matches (encCcReg op n) :=
  have h : Short (0x02#8 ++ 0#3 ++ op ++ n) := by simp only [Short, BitVec.getLsbD_append]; rfl
  matches_two _ h

theorem of_encCcStat (dop : BitVec 3) (b : AstatBit) : Matches (encCcStat dop b) :=
  have h : Short (0x03#8 ++ dop ++ b.code) := by simp only [Short, BitVec.getLsbD_append]; rfl
  matches_two _ h

theorem of_encMult (dpw dr pr : BitVec 3) : Matches (encMult dpw dr pr) :=
  have h : Short (0b0000010#7 ++ dpw ++ dr ++ pr) := by simp only [Short, BitVec.getLsbD_append]; rfl
  matches_two _ h

theorem of_encCcMv (t : BitVec 1) (dst src : DPReg) : Matches (encCcMv t dst src) :=
  have h : Short (0b0000011#7 ++ t ++ dst.sel ++ src.sel ++ dst.num ++ src.num) := by
    simp only [Short, BitVec.getLsbD_append]
    rfl
  matches_two _ h

theorem of_encCcFlag (iog : BitVec 5) (y x : BitVec 3) : Matches (encCcFlag iog y x) :=
  have h : Short (0b00001#5 ++ iog ++ y ++ x) := by simp only [Short, BitVec.getLsbD_append]; rfl
  matches_two _ h

theorem of_encBrcc (t : BitVec 1) (bp : Bool) (off : BitVec 10) : Matches (encBrcc t bp off) :=
  have h : Short (0b0001#4 ++ t ++ bitField bp ++ off) := by simp only [Short, BitVec.getLsbD_append]; rfl
  matches_two _ h

theorem of_encGrp4 (op : BitVec 5) (s d : BitVec 3) : Matches (encGrp4 op s d) :=
  have h : Short (0b0100#4 ++ 0#1 ++ op ++ s ++ d) := by simp only [Short, BitVec.getLsbD_append]; rfl
  matches_two _ h

theorem of_encLogi (op : BitVec 3) (imm : BitVec 5) (d : DReg) : Matches (encLogi op imm d) :=
  have h : Short (0b01001#5 ++ op ++ imm ++ d.code) := by simp only [Short, BitVec.getLsbD_append]; rfl
  matches_two _ h

theorem of_encComp3 (op d s1 s0 : BitVec 3) : Matches (encComp3 op d s1 s0) :=
  have h : Short (0b0101#4 ++ op ++ d ++ s1 ++ s0) := by simp only [Short, BitVec.getLsbD_append]; rfl
  matches_two _ h

theorem of_encCompI (op : BitVec 2) (imm : BitVec 7) (d : BitVec 3) : Matches (encCompI op imm d) :=
  have h : Short (0b0110#4 ++ op ++ imm ++ d) := by simp only [Short, BitVec.getLsbD_append]; rfl
  matches_two _ h

theorem of_encPmod (waop : BitVec 3) (rr : DReg) (pi pp : PReg) : Matches (encPmod waop rr pi pp) :=
  have h : Short (0b1000#4 ++ waop ++ rr.code ++ pi.code ++ pp.code) := by simp only [Short, BitVec.getLsbD_append]; rfl
  matches_two _ h

theorem of_encLdst (op : BitVec 6) (pp : PReg) (r : BitVec 3) : Matches (encLdst op pp r) :=
  have h : Short (0b1001#4 ++ op ++ pp.code ++ r) := by simp only [Short, BitVec.getLsbD_append]; rfl
  matches_two _ h

theorem of_encDsp (op : BitVec 5) (i : Quad) (rr : DReg) : Matches (encDsp op i rr) :=
  have h : Short (0b100111#6 ++ op ++ i.code ++ rr.code) := by simp only [Short, BitVec.getLsbD_append]; rfl
  matches_two _ h

theorem of_encDagM (op : BitVec 6) (m i : Quad) : Matches (encDagM op m i) :=
  have h : Short (0b100111#6 ++ op ++ m.code ++ i.code) := by simp only [Short, BitVec.getLsbD_append]; rfl
  matches_two _ h

theorem of_encDagK (op : BitVec 2) (i : Quad) : Matches (encDagK op i) :=
  have h : Short (0b100111110110#12 ++ op ++ i.code) := by simp only [Short, BitVec.getLsbD_append]; rfl
  matches_two _ h

theorem of_encLdstIi (wop : BitVec 3) (off : BitVec 4) (pp : PReg) (r : BitVec 3) : Matches (encLdstIi wop off pp r) :=
  have h : Short (0b101#3 ++ wop ++ off ++ pp.code ++ r) := by simp only [Short, BitVec.getLsbD_append]; rfl
  matches_two _ h

theorem of_encLdstFp (wr : BitVec 1) (off : BitVec 5) (sel : BitVec 1) (r : BitVec 3) :
    Matches (encLdstFp wr off sel r) :=
  have h : Short (0b101110#6 ++ wr ++ off ++ sel ++ r) := by simp only [Short, BitVec.getLsbD_append]; rfl
  matches_two _ h

theorem of_encLoop (rop : BitVec 2) (c : LoopNo) (soff : BitVec 4) (p : BitVec 3) (eoff : BitVec 10) :
    Matches (encLoop rop c soff p eoff) :=
  have h : Long (0b111000001#9 ++ rop ++ c.code ++ soff) := by simp only [Long, BitVec.getLsbD_append]; rfl
  matches_four _ _ h

theorem of_encLdImm (zhs : BitVec 3) (g : GenReg) (imm : BitVec 16) : Matches (encLdImm zhs g imm) :=
  have h : Long (0xE1#8 ++ zhs ++ g.grp ++ g.num) := by simp only [Long, BitVec.getLsbD_append]; rfl
  matches_four _ _ h

theorem of_encCall (s : BitVec 1) (off : BitVec 24) : Matches (encCall s off) :=
  have h : Long (0b1110001#7 ++ s ++ off.extractLsb' 16 8) := by simp only [Long, BitVec.getLsbD_append]; rfl
  matches_four _ _ h

theorem of_encIdx (wzsz : BitVec 4) (pp : PReg) (r : BitVec 3) (off : BitVec 16) : Matches (encIdx wzsz pp r off) :=
  have h : Long (0b111001#6 ++ wzsz ++ pp.code ++ r) := by simp only [Long, BitVec.getLsbD_append]; rfl
  matches_four _ _ h

/-! ### The instructions -/

theorem nop : Statement .nop := of_encProg _ _
theorem rts : Statement .rts := of_encProg _ _
theorem rti : Statement .rti := of_encProg _ _
theorem rtx : Statement .rtx := of_encProg _ _
theorem rtn : Statement .rtn := of_encProg _ _
theorem rte : Statement .rte := of_encProg _ _
theorem idle : Statement .idle := of_encProg _ _
theorem csync : Statement .csync := of_encProg _ _
theorem ssync : Statement .ssync := of_encProg _ _
theorem emuexcpt : Statement .emuexcpt := of_encProg _ _
theorem cli (rd : DReg) : Statement (.cli rd) := of_encProg3 _ _
theorem sti (rd : DReg) : Statement (.sti rd) := of_encProg3 _ _
theorem jumpReg (pn : PReg) : Statement (.jumpReg pn) := of_encProg3 _ _
theorem callReg (pn : PReg) : Statement (.callReg pn) := of_encProg3 _ _
theorem callPcReg (pn : PReg) : Statement (.callPcReg pn) := of_encProg3 _ _
theorem jumpPcReg (pn : PReg) : Statement (.jumpPcReg pn) := of_encProg3 _ _
theorem raise (n : BitVec 4) : Statement (.raise n) := of_encProg _ _
theorem excpt (n : BitVec 4) : Statement (.excpt n) := of_encProg _ _
theorem testset (pn : PReg) : Statement (.testset pn) := of_encProg3 _ _
theorem popReg (reg : Reg) : Statement (.popReg reg) := of_encPushPop _ _
theorem pushReg (reg : Reg) : Statement (.pushReg reg) := of_encPushPop _ _
theorem ccToD (rd : DReg) : Statement (.ccToD rd) := of_encCcReg _ _
theorem dToCc (rs : DReg) : Statement (.dToCc rs) := of_encCcReg _ _
theorem notCc : Statement .notCc := of_encCcReg _ _
theorem prefetch (post : Bool) (pp : PReg) : Statement (.prefetch post pp) := of_encCache _ _ _
theorem flushinv (post : Bool) (pp : PReg) : Statement (.flushinv post pp) := of_encCache _ _ _
theorem flush (post : Bool) (pp : PReg) : Statement (.flush post pp) := of_encCache _ _ _
theorem iflush (post : Bool) (pp : PReg) : Statement (.iflush post pp) := of_encCache _ _ _
theorem ccSetBit (bit : AstatBit) : Statement (.ccSetBit bit) := of_encCcStat _ _
theorem ccOrBit (bit : AstatBit) : Statement (.ccOrBit bit) := of_encCcStat _ _
theorem ccAndBit (bit : AstatBit) : Statement (.ccAndBit bit) := of_encCcStat _ _
theorem ccXorBit (bit : AstatBit) : Statement (.ccXorBit bit) := of_encCcStat _ _
theorem bitSetCc (bit : AstatBit) : Statement (.bitSetCc bit) := of_encCcStat _ _
theorem bitOrCc (bit : AstatBit) : Statement (.bitOrCc bit) := of_encCcStat _ _
theorem bitAndCc (bit : AstatBit) : Statement (.bitAndCc bit) := of_encCcStat _ _
theorem bitXorCc (bit : AstatBit) : Statement (.bitXorCc bit) := of_encCcStat _ _
theorem popMultDP (dr : DReg) (pr : PReg) : Statement (.popMultDP dr pr) := of_encMult _ _ _
theorem popMultD (dr : DReg) : Statement (.popMultD dr) := of_encMult _ _ _
theorem popMultP (pr : PReg) : Statement (.popMultP pr) := of_encMult _ _ _
theorem pushMultDP (dr : DReg) (pr : PReg) : Statement (.pushMultDP dr pr) := of_encMult _ _ _
theorem pushMultD (dr : DReg) : Statement (.pushMultD dr) := of_encMult _ _ _
theorem pushMultP (pr : PReg) : Statement (.pushMultP pr) := of_encMult _ _ _
theorem movIfNotCc (dst : DPReg) (src : DPReg) : Statement (.movIfNotCc dst src) := of_encCcMv _ _ _
theorem movIfCc (dst : DPReg) (src : DPReg) : Statement (.movIfCc dst src) := of_encCcMv _ _ _
theorem cmpEqD (rx : DReg) (ry : DReg) : Statement (.cmpEqD rx ry) := of_encCcFlag _ _ _
theorem cmpEqDImm (rx : DReg) (imm : BitVec 3) : Statement (.cmpEqDImm rx imm) := of_encCcFlag _ _ _
theorem cmpEqP (px : PReg) (py : PReg) : Statement (.cmpEqP px py) := of_encCcFlag _ _ _
theorem cmpEqPImm (px : PReg) (imm : BitVec 3) : Statement (.cmpEqPImm px imm) := of_encCcFlag _ _ _
theorem cmpLtD (rx : DReg) (ry : DReg) : Statement (.cmpLtD rx ry) := of_encCcFlag _ _ _
theorem cmpLtDImm (rx : DReg) (imm : BitVec 3) : Statement (.cmpLtDImm rx imm) := of_encCcFlag _ _ _
theorem cmpLtP (px : PReg) (py : PReg) : Statement (.cmpLtP px py) := of_encCcFlag _ _ _
theorem cmpLtPImm (px : PReg) (imm : BitVec 3) : Statement (.cmpLtPImm px imm) := of_encCcFlag _ _ _
theorem cmpLeD (rx : DReg) (ry : DReg) : Statement (.cmpLeD rx ry) := of_encCcFlag _ _ _
theorem cmpLeDImm (rx : DReg) (imm : BitVec 3) : Statement (.cmpLeDImm rx imm) := of_encCcFlag _ _ _
theorem cmpLeP (px : PReg) (py : PReg) : Statement (.cmpLeP px py) := of_encCcFlag _ _ _
theorem cmpLePImm (px : PReg) (imm : BitVec 3) : Statement (.cmpLePImm px imm) := of_encCcFlag _ _ _
theorem cmpLtuD (rx : DReg) (ry : DReg) : Statement (.cmpLtuD rx ry) := of_encCcFlag _ _ _
theorem cmpLtuDImm (rx : DReg) (imm : BitVec 3) : Statement (.cmpLtuDImm rx imm) := of_encCcFlag _ _ _
theorem cmpLtuP (px : PReg) (py : PReg) : Statement (.cmpLtuP px py) := of_encCcFlag _ _ _
theorem cmpLtuPImm (px : PReg) (imm : BitVec 3) : Statement (.cmpLtuPImm px imm) := of_encCcFlag _ _ _
theorem cmpLeuD (rx : DReg) (ry : DReg) : Statement (.cmpLeuD rx ry) := of_encCcFlag _ _ _
theorem cmpLeuDImm (rx : DReg) (imm : BitVec 3) : Statement (.cmpLeuDImm rx imm) := of_encCcFlag _ _ _
theorem cmpLeuP (px : PReg) (py : PReg) : Statement (.cmpLeuP px py) := of_encCcFlag _ _ _
theorem cmpLeuPImm (px : PReg) (imm : BitVec 3) : Statement (.cmpLeuPImm px imm) := of_encCcFlag _ _ _
theorem cmpEqAcc : Statement .cmpEqAcc := of_encCcFlag _ _ _
theorem cmpLtAcc : Statement .cmpLtAcc := of_encCcFlag _ _ _
theorem cmpLeAcc : Statement .cmpLeAcc := of_encCcFlag _ _ _
theorem jumpIfNotCc (bp : Bool) (offset : BitVec 10) : Statement (.jumpIfNotCc bp offset) := of_encBrcc _ _ _
theorem jumpIfCc (bp : Bool) (offset : BitVec 10) : Statement (.jumpIfCc bp offset) := of_encBrcc _ _ _
theorem jumpShort (offset : BitVec 12) : Statement (.jumpShort offset) :=
  have h : Short (0b0010#4 ++ offset) := by simp only [Short, BitVec.getLsbD_append]; rfl
  matches_two _ h
theorem regMove (dst : Reg) (src : Reg) : Statement (.regMove dst src) :=
  have h : Short (0b0011#4 ++ dst.grp ++ src.grp ++ dst.num ++ src.num) := by
    simp only [Short, BitVec.getLsbD_append]
    rfl
  matches_two _ h
theorem asrD (rd : DReg) (rs : DReg) : Statement (.asrD rd rs) := of_encGrp4 _ _ _
theorem lsrD (rd : DReg) (rs : DReg) : Statement (.lsrD rd rs) := of_encGrp4 _ _ _
theorem lslD (rd : DReg) (rs : DReg) : Statement (.lslD rd rs) := of_encGrp4 _ _ _
theorem mulD (rd : DReg) (rs : DReg) : Statement (.mulD rd rs) := of_encGrp4 _ _ _
theorem sextHalf (rd : DReg) (rs : DReg) : Statement (.sextHalf rd rs) := of_encGrp4 _ _ _
theorem zextHalf (rd : DReg) (rs : DReg) : Statement (.zextHalf rd rs) := of_encGrp4 _ _ _
theorem sextByte (rd : DReg) (rs : DReg) : Statement (.sextByte rd rs) := of_encGrp4 _ _ _
theorem zextByte (rd : DReg) (rs : DReg) : Statement (.zextByte rd rs) := of_encGrp4 _ _ _
theorem negD (rd : DReg) (rs : DReg) : Statement (.negD rd rs) := of_encGrp4 _ _ _
theorem notD (rd : DReg) (rs : DReg) : Statement (.notD rd rs) := of_encGrp4 _ _ _
theorem subP (pd : PReg) (ps : PReg) : Statement (.subP pd ps) := of_encGrp4 _ _ _
theorem shl2P (pd : PReg) (ps : PReg) : Statement (.shl2P pd ps) := of_encGrp4 _ _ _
theorem shr2P (pd : PReg) (ps : PReg) : Statement (.shr2P pd ps) := of_encGrp4 _ _ _
theorem shr1P (pd : PReg) (ps : PReg) : Statement (.shr1P pd ps) := of_encGrp4 _ _ _
theorem sumShl1P (pd : PReg) (ps : PReg) : Statement (.sumShl1P pd ps) := of_encGrp4 _ _ _
theorem sumShl2P (pd : PReg) (ps : PReg) : Statement (.sumShl2P pd ps) := of_encGrp4 _ _ _
theorem bittstNot (rd : DReg) (imm : BitVec 5) : Statement (.bittstNot rd imm) := of_encLogi _ _ _
theorem bittst (rd : DReg) (imm : BitVec 5) : Statement (.bittst rd imm) := of_encLogi _ _ _
theorem bitset (rd : DReg) (imm : BitVec 5) : Statement (.bitset rd imm) := of_encLogi _ _ _
theorem bittgl (rd : DReg) (imm : BitVec 5) : Statement (.bittgl rd imm) := of_encLogi _ _ _
theorem bitclr (rd : DReg) (imm : BitVec 5) : Statement (.bitclr rd imm) := of_encLogi _ _ _
theorem asrImm (rd : DReg) (imm : BitVec 5) : Statement (.asrImm rd imm) := of_encLogi _ _ _
theorem lsrImm (rd : DReg) (imm : BitVec 5) : Statement (.lsrImm rd imm) := of_encLogi _ _ _
theorem lslImm (rd : DReg) (imm : BitVec 5) : Statement (.lslImm rd imm) := of_encLogi _ _ _
theorem addD (rd : DReg) (rs0 : DReg) (rs1 : DReg) : Statement (.addD rd rs0 rs1) := of_encComp3 _ _ _ _
theorem subD (rd : DReg) (rs0 : DReg) (rs1 : DReg) : Statement (.subD rd rs0 rs1) := of_encComp3 _ _ _ _
theorem andD (rd : DReg) (rs0 : DReg) (rs1 : DReg) : Statement (.andD rd rs0 rs1) := of_encComp3 _ _ _ _
theorem orD (rd : DReg) (rs0 : DReg) (rs1 : DReg) : Statement (.orD rd rs0 rs1) := of_encComp3 _ _ _ _
theorem xorD (rd : DReg) (rs0 : DReg) (rs1 : DReg) : Statement (.xorD rd rs0 rs1) := of_encComp3 _ _ _ _
theorem addP (pd : PReg) (ps0 : PReg) (ps1 : PReg) : Statement (.addP pd ps0 ps1) := of_encComp3 _ _ _ _
theorem addPShl1 (pd : PReg) (ps0 : PReg) (ps1 : PReg) : Statement (.addPShl1 pd ps0 ps1) := of_encComp3 _ _ _ _
theorem addPShl2 (pd : PReg) (ps0 : PReg) (ps1 : PReg) : Statement (.addPShl2 pd ps0 ps1) := of_encComp3 _ _ _ _
theorem movImmD (rd : DReg) (imm : BitVec 7) : Statement (.movImmD rd imm) := of_encCompI _ _ _
theorem addImmD (rd : DReg) (imm : BitVec 7) : Statement (.addImmD rd imm) := of_encCompI _ _ _
theorem movImmP (pd : PReg) (imm : BitVec 7) : Statement (.movImmP pd imm) := of_encCompI _ _ _
theorem addImmP (pd : PReg) (imm : BitVec 7) : Statement (.addImmP pd imm) := of_encCompI _ _ _
theorem ldPmod (rr : DReg) (pp : PReg) (pi : PReg) : Statement (.ldPmod rr pp pi) := of_encPmod _ _ _ _
theorem ldPmodLo (rr : DReg) (pp : PReg) (pi : PReg) : Statement (.ldPmodLo rr pp pi) := of_encPmod _ _ _ _
theorem ldPmodHi (rr : DReg) (pp : PReg) (pi : PReg) : Statement (.ldPmodHi rr pp pi) := of_encPmod _ _ _ _
theorem ldPmodHalfZ (rr : DReg) (pp : PReg) (pi : PReg) : Statement (.ldPmodHalfZ rr pp pi) := of_encPmod _ _ _ _
theorem stPmod (rr : DReg) (pp : PReg) (pi : PReg) : Statement (.stPmod rr pp pi) := of_encPmod _ _ _ _
theorem stPmodLo (rr : DReg) (pp : PReg) (pi : PReg) : Statement (.stPmodLo rr pp pi) := of_encPmod _ _ _ _
theorem stPmodHi (rr : DReg) (pp : PReg) (pi : PReg) : Statement (.stPmodHi rr pp pi) := of_encPmod _ _ _ _
theorem ldPmodHalfX (rr : DReg) (pp : PReg) (pi : PReg) : Statement (.ldPmodHalfX rr pp pi) := of_encPmod _ _ _ _
theorem ldDInc (rr : DReg) (pp : PReg) : Statement (.ldDInc rr pp) := of_encLdst _ _ _
theorem ldPInc (pr : PReg) (pp : PReg) : Statement (.ldPInc pr pp) := of_encLdst _ _ _
theorem ldHalfZInc (rr : DReg) (pp : PReg) : Statement (.ldHalfZInc rr pp) := of_encLdst _ _ _
theorem ldHalfXInc (rr : DReg) (pp : PReg) : Statement (.ldHalfXInc rr pp) := of_encLdst _ _ _
theorem ldByteZInc (rr : DReg) (pp : PReg) : Statement (.ldByteZInc rr pp) := of_encLdst _ _ _
theorem ldByteXInc (rr : DReg) (pp : PReg) : Statement (.ldByteXInc rr pp) := of_encLdst _ _ _
theorem stDInc (rr : DReg) (pp : PReg) : Statement (.stDInc rr pp) := of_encLdst _ _ _
theorem stPInc (pr : PReg) (pp : PReg) : Statement (.stPInc pr pp) := of_encLdst _ _ _
theorem stHalfInc (rr : DReg) (pp : PReg) : Statement (.stHalfInc rr pp) := of_encLdst _ _ _
theorem stByteInc (rr : DReg) (pp : PReg) : Statement (.stByteInc rr pp) := of_encLdst _ _ _
theorem ldDDec (rr : DReg) (pp : PReg) : Statement (.ldDDec rr pp) := of_encLdst _ _ _
theorem ldPDec (pr : PReg) (pp : PReg) : Statement (.ldPDec pr pp) := of_encLdst _ _ _
theorem ldHalfZDec (rr : DReg) (pp : PReg) : Statement (.ldHalfZDec rr pp) := of_encLdst _ _ _
theorem ldHalfXDec (rr : DReg) (pp : PReg) : Statement (.ldHalfXDec rr pp) := of_encLdst _ _ _
theorem ldByteZDec (rr : DReg) (pp : PReg) : Statement (.ldByteZDec rr pp) := of_encLdst _ _ _
theorem ldByteXDec (rr : DReg) (pp : PReg) : Statement (.ldByteXDec rr pp) := of_encLdst _ _ _
theorem stDDec (rr : DReg) (pp : PReg) : Statement (.stDDec rr pp) := of_encLdst _ _ _
theorem stPDec (pr : PReg) (pp : PReg) : Statement (.stPDec pr pp) := of_encLdst _ _ _
theorem stHalfDec (rr : DReg) (pp : PReg) : Statement (.stHalfDec rr pp) := of_encLdst _ _ _
theorem stByteDec (rr : DReg) (pp : PReg) : Statement (.stByteDec rr pp) := of_encLdst _ _ _
theorem ldDInd (rr : DReg) (pp : PReg) : Statement (.ldDInd rr pp) := of_encLdst _ _ _
theorem ldPInd (pr : PReg) (pp : PReg) : Statement (.ldPInd pr pp) := of_encLdst _ _ _
theorem ldHalfZInd (rr : DReg) (pp : PReg) : Statement (.ldHalfZInd rr pp) := of_encLdst _ _ _
theorem ldHalfXInd (rr : DReg) (pp : PReg) : Statement (.ldHalfXInd rr pp) := of_encLdst _ _ _
theorem ldByteZInd (rr : DReg) (pp : PReg) : Statement (.ldByteZInd rr pp) := of_encLdst _ _ _
theorem ldByteXInd (rr : DReg) (pp : PReg) : Statement (.ldByteXInd rr pp) := of_encLdst _ _ _
theorem stDInd (rr : DReg) (pp : PReg) : Statement (.stDInd rr pp) := of_encLdst _ _ _
theorem stPInd (pr : PReg) (pp : PReg) : Statement (.stPInd pr pp) := of_encLdst _ _ _
theorem stHalfInd (rr : DReg) (pp : PReg) : Statement (.stHalfInd rr pp) := of_encLdst _ _ _
theorem stByteInd (rr : DReg) (pp : PReg) : Statement (.stByteInd rr pp) := of_encLdst _ _ _
theorem ldIInc (rr : DReg) (i : Quad) : Statement (.ldIInc rr i) := of_encDsp _ _ _
theorem ldILoInc (rr : DReg) (i : Quad) : Statement (.ldILoInc rr i) := of_encDsp _ _ _
theorem ldIHiInc (rr : DReg) (i : Quad) : Statement (.ldIHiInc rr i) := of_encDsp _ _ _
theorem stIInc (rr : DReg) (i : Quad) : Statement (.stIInc rr i) := of_encDsp _ _ _
theorem stILoInc (rr : DReg) (i : Quad) : Statement (.stILoInc rr i) := of_encDsp _ _ _
theorem stIHiInc (rr : DReg) (i : Quad) : Statement (.stIHiInc rr i) := of_encDsp _ _ _
theorem ldIDec (rr : DReg) (i : Quad) : Statement (.ldIDec rr i) := of_encDsp _ _ _
theorem ldILoDec (rr : DReg) (i : Quad) : Statement (.ldILoDec rr i) := of_encDsp _ _ _
theorem ldIHiDec (rr : DReg) (i : Quad) : Statement (.ldIHiDec rr i) := of_encDsp _ _ _
theorem stIDec (rr : DReg) (i : Quad) : Statement (.stIDec rr i) := of_encDsp _ _ _
theorem stILoDec (rr : DReg) (i : Quad) : Statement (.stILoDec rr i) := of_encDsp _ _ _
theorem stIHiDec (rr : DReg) (i : Quad) : Statement (.stIHiDec rr i) := of_encDsp _ _ _
theorem ldIInd (rr : DReg) (i : Quad) : Statement (.ldIInd rr i) := of_encDsp _ _ _
theorem ldILoInd (rr : DReg) (i : Quad) : Statement (.ldILoInd rr i) := of_encDsp _ _ _
theorem ldIHiInd (rr : DReg) (i : Quad) : Statement (.ldIHiInd rr i) := of_encDsp _ _ _
theorem stIInd (rr : DReg) (i : Quad) : Statement (.stIInd rr i) := of_encDsp _ _ _
theorem stILoInd (rr : DReg) (i : Quad) : Statement (.stILoInd rr i) := of_encDsp _ _ _
theorem stIHiInd (rr : DReg) (i : Quad) : Statement (.stIHiInd rr i) := of_encDsp _ _ _
theorem ldIMod (rr : DReg) (i : Quad) (m : Quad) : Statement (.ldIMod rr i m) := of_encDsp _ _ _
theorem stIMod (rr : DReg) (i : Quad) (m : Quad) : Statement (.stIMod rr i m) := of_encDsp _ _ _
theorem addIM (i : Quad) (m : Quad) : Statement (.addIM i m) := of_encDagM _ _ _
theorem subIM (i : Quad) (m : Quad) : Statement (.subIM i m) := of_encDagM _ _ _
theorem addI2 (i : Quad) : Statement (.addI2 i) := of_encDagK _ _
theorem subI2 (i : Quad) : Statement (.subI2 i) := of_encDagK _ _
theorem addI4 (i : Quad) : Statement (.addI4 i) := of_encDagK _ _
theorem subI4 (i : Quad) : Statement (.subI4 i) := of_encDagK _ _
theorem ldDOff (rr : DReg) (pp : PReg) (offset : BitVec 4) : Statement (.ldDOff rr pp offset) := of_encLdstIi _ _ _ _
theorem ldHalfZOff (rr : DReg) (pp : PReg) (offset : BitVec 4) : Statement (.ldHalfZOff rr pp offset) :=
  of_encLdstIi _ _ _ _
theorem ldHalfXOff (rr : DReg) (pp : PReg) (offset : BitVec 4) : Statement (.ldHalfXOff rr pp offset) :=
  of_encLdstIi _ _ _ _
theorem ldPOff (pr : PReg) (pp : PReg) (offset : BitVec 4) : Statement (.ldPOff pr pp offset) := of_encLdstIi _ _ _ _
theorem stDOff (rr : DReg) (pp : PReg) (offset : BitVec 4) : Statement (.stDOff rr pp offset) := of_encLdstIi _ _ _ _
theorem stHalfOff (rr : DReg) (pp : PReg) (offset : BitVec 4) : Statement (.stHalfOff rr pp offset) :=
  of_encLdstIi _ _ _ _
theorem stPOff (pr : PReg) (pp : PReg) (offset : BitVec 4) : Statement (.stPOff pr pp offset) := of_encLdstIi _ _ _ _
theorem ldDFp (rr : DReg) (offset : BitVec 5) : Statement (.ldDFp rr offset) := of_encLdstFp _ _ _ _
theorem ldPFp (pr : PReg) (offset : BitVec 5) : Statement (.ldPFp pr offset) := of_encLdstFp _ _ _ _
theorem stDFp (rr : DReg) (offset : BitVec 5) : Statement (.stDFp rr offset) := of_encLdstFp _ _ _ _
theorem stPFp (pr : PReg) (offset : BitVec 5) : Statement (.stPFp pr offset) := of_encLdstFp _ _ _ _
theorem lsetup (c : LoopNo) (soffset : BitVec 4) (eoffset : BitVec 10) : Statement (.lsetup c soffset eoffset) :=
  of_encLoop _ _ _ _ _
theorem lsetupP (c : LoopNo) (soffset : BitVec 4) (pp : PReg) (eoffset : BitVec 10) :
    Statement (.lsetupP c soffset pp eoffset) :=
  of_encLoop _ _ _ _ _
theorem lsetupPHalf (c : LoopNo) (soffset : BitVec 4) (pp : PReg) (eoffset : BitVec 10) :
    Statement (.lsetupPHalf c soffset pp eoffset) :=
  of_encLoop _ _ _ _ _
theorem ldiLo (reg : GenReg) (imm : BitVec 16) : Statement (.ldiLo reg imm) := of_encLdImm _ _ _
theorem ldiHi (reg : GenReg) (imm : BitVec 16) : Statement (.ldiHi reg imm) := of_encLdImm _ _ _
theorem ldiZ (reg : GenReg) (imm : BitVec 16) : Statement (.ldiZ reg imm) := of_encLdImm _ _ _
theorem ldiX (reg : GenReg) (imm : BitVec 16) : Statement (.ldiX reg imm) := of_encLdImm _ _ _
theorem jumpLong (offset : BitVec 24) : Statement (.jumpLong offset) := of_encCall _ _
theorem callLong (offset : BitVec 24) : Statement (.callLong offset) := of_encCall _ _
theorem ldDIdx (rr : DReg) (pp : PReg) (offset : BitVec 16) : Statement (.ldDIdx rr pp offset) := of_encIdx _ _ _ _
theorem ldPIdx (pr : PReg) (pp : PReg) (offset : BitVec 16) : Statement (.ldPIdx pr pp offset) := of_encIdx _ _ _ _
theorem stDIdx (rr : DReg) (pp : PReg) (offset : BitVec 16) : Statement (.stDIdx rr pp offset) := of_encIdx _ _ _ _
theorem stPIdx (pr : PReg) (pp : PReg) (offset : BitVec 16) : Statement (.stPIdx pr pp offset) := of_encIdx _ _ _ _
theorem ldHalfZIdx (rr : DReg) (pp : PReg) (offset : BitVec 16) : Statement (.ldHalfZIdx rr pp offset) :=
  of_encIdx _ _ _ _
theorem ldHalfXIdx (rr : DReg) (pp : PReg) (offset : BitVec 16) : Statement (.ldHalfXIdx rr pp offset) :=
  of_encIdx _ _ _ _
theorem stHalfIdx (rr : DReg) (pp : PReg) (offset : BitVec 16) : Statement (.stHalfIdx rr pp offset) :=
  of_encIdx _ _ _ _
theorem ldByteZIdx (rr : DReg) (pp : PReg) (offset : BitVec 16) : Statement (.ldByteZIdx rr pp offset) :=
  of_encIdx _ _ _ _
theorem ldByteXIdx (rr : DReg) (pp : PReg) (offset : BitVec 16) : Statement (.ldByteXIdx rr pp offset) :=
  of_encIdx _ _ _ _
theorem stByteIdx (rr : DReg) (pp : PReg) (offset : BitVec 16) : Statement (.stByteIdx rr pp offset) :=
  of_encIdx _ _ _ _
theorem link (framesize : BitVec 16) : Statement (.link framesize) := rfl
theorem unlink : Statement .unlink := rfl

end Sys2Proof.Laws.EncodedLength
end

