-- ==== Sys2Proof/Laws/Stops.lean ====
section
/-! SUPPORT. Where an access below the MMRs stops (20 R136, R138, R143, R146; 10 R91), said once for loads and stores. -/

namespace Sys2Proof.Machine

/-- L1 instruction memory (20 R135). -/
def InL1Instr (x : Nat) : Prop := 0xFFA00000 ≤ x ∧ x < 0xFFA14000

/-- The boot ROM (20 R135). -/
def InBootRom (x : Nat) : Prop := 0xEF000000 ≤ x ∧ x < 0xEF000400

theorem readBar_l1 (p : Platform) (x : Nat) (h : InL1Instr x) : readBar p x = some .dataAccessToInstrMem := by
  unfold InL1Instr at h
  unfold readBar Platform.populates
  rcases regionOf_cases x with g | g | g | g | g | g | g | g | g | g | g | g | g <;> first | omega | simp [g]

theorem readBar_unpopulated (p : Platform) (x : Nat) (hx : x < 0xFFC00000) (hl : ¬ InL1Instr x)
    (hr : ¬ p.DataReadable x) : readBar p x = some .unpopulatedAddress := by
  rw [← readBar_none p x hx] at hr
  unfold InL1Instr at hl
  unfold readBar at *
  rcases regionOf_cases x with g | g | g | g | g | g | g | g | g | g | g | g | g <;>
    first | omega | (simp only [g] at hr ⊢; split <;> simp_all)

theorem writeBar_of_readBar (p : Platform) (x : Nat) (r : Refusal) (h : readBar p x = some r) :
    writeBar p x = some r := by simp [writeBar, h]

theorem writeBar_rom (p : Platform) (x : Nat) (h : InBootRom x) : writeBar p x = some .romWrite := by
  unfold InBootRom at h
  have hr : readBar p x = none := (readBar_none p x (by omega)).mpr (.inr h)
  rcases regionOf_cases x with g | g | g | g | g | g | g | g | g | g | g | g | g <;>
    first | omega | simp [writeBar, hr, g]

/-- Where one refusal alone bars bytes of a span, that is the answer. -/
theorem spanBar_some (bar : Nat → Option Refusal) (a n : Nat) (r : Refusal)
    (h : ∀ k, k < n → bar (a + k) = none ∨ bar (a + k) = some r) (hb : ∃ k, k < n ∧ bar (a + k) = some r) :
    spanBar bar a n = some r := by
  cases e : spanBar bar a n with
  | none =>
    rw [spanBar_none] at e
    obtain ⟨k, hk, hb⟩ := hb
    rw [e k hk] at hb
    cases hb
  | some q =>
    obtain ⟨x, hx, hq⟩ := List.exists_of_findSome?_eq_some e
    obtain ⟨k, hk, rfl⟩ := List.mem_map.mp hx
    rcases h k (List.mem_range.mp hk) with g | g
    · rw [g] at hq; cases hq
    · rw [g] at hq; exact hq.symm

/-- An aligned access lies whole in L1 instruction memory, or not at all; likewise in the boot ROM. -/
theorem aligned_regions (a : Nat) (z : Size) (h : a % z.bytes = 0) (k : Nat) (hk : k < z.bytes) :
    (InL1Instr (a + k) ↔ InL1Instr a) ∧ (InBootRom (a + k) ↔ InBootRom a) := by
  unfold InL1Instr InBootRom
  rcases z.bytes_cases with e | e | e <;> rw [e] at h hk <;> omega

/-- An aligned access below the MMRs. -/
structure AlignedBelow (a : Word) (z : Size) : Prop where
  aligned : a.toNat % z.bytes = 0
  below : a.toNat < 0xFFC00000

/-- The first reason that bars a load: L1 instruction memory, or a byte that does not exist. -/
theorem spanBar_read (p : Platform) (a : Word) (z : Size) (h : AlignedBelow a z) :
    (InL1Instr a.toNat → spanBar (readBar p) a.toNat z.bytes = some .dataAccessToInstrMem) ∧
    (¬ InL1Instr a.toNat → ¬ (∀ k, k < z.bytes → p.DataReadable (a.toNat + k)) →
      spanBar (readBar p) a.toNat z.bytes = some .unpopulatedAddress) ∧
    ((∀ k, k < z.bytes → p.DataReadable (a.toNat + k)) → spanBar (readBar p) a.toNat z.bytes = none) := by
  have hlt := fun k hk => aligned_below _ _ h.aligned h.below k hk
  refine ⟨fun hl => ?_, fun hl hd => ?_, fun hd => ?_⟩
  · have g := fun k hk => readBar_l1 p _ ((aligned_regions _ _ h.aligned k hk).1.mpr hl)
    exact spanBar_some _ _ _ _ (fun k hk => .inr (g k hk)) ⟨0, z.bytes_pos, g 0 z.bytes_pos⟩
  · have g := fun k hk hr => readBar_unpopulated p _ (hlt k hk)
      (fun hh => hl ((aligned_regions _ _ h.aligned k hk).1.mp hh)) hr
    refine spanBar_some _ _ _ _ (fun k hk => ?_) ?_
    · by_cases hr : p.DataReadable (a.toNat + k)
      · exact .inl ((readBar_none p _ (hlt k hk)).mpr hr)
      · exact .inr (g k hk hr)
    · simp only [not_forall] at hd
      obtain ⟨k, hk, hr⟩ := hd
      exact ⟨k, hk, g k hk hr⟩
  · rw [spanBar_none]
    exact fun k hk => (readBar_none p _ (hlt k hk)).mpr (hd k hk)

/-- The first reason that bars a store: that of a load, or the boot ROM. -/
theorem spanBar_write (p : Platform) (a : Word) (z : Size) (h : AlignedBelow a z) :
    (InL1Instr a.toNat → spanBar (writeBar p) a.toNat z.bytes = some .dataAccessToInstrMem) ∧
    (¬ InL1Instr a.toNat → ¬ (∀ k, k < z.bytes → p.DataReadable (a.toNat + k)) →
      spanBar (writeBar p) a.toNat z.bytes = some .unpopulatedAddress) ∧
    (InBootRom a.toNat → spanBar (writeBar p) a.toNat z.bytes = some .romWrite) ∧
    ((∀ k, k < z.bytes → p.DataRam (a.toNat + k)) → spanBar (writeBar p) a.toNat z.bytes = none) := by
  have hlt := fun k hk => aligned_below _ _ h.aligned h.below k hk
  refine ⟨fun hl => ?_, fun hl hd => ?_, fun hb => ?_, fun hd => ?_⟩
  · have g := fun k hk => writeBar_of_readBar p _ _ (readBar_l1 p _ ((aligned_regions _ _ h.aligned k hk).1.mpr hl))
    exact spanBar_some _ _ _ _ (fun k hk => .inr (g k hk)) ⟨0, z.bytes_pos, g 0 z.bytes_pos⟩
  · have hrom : ¬ InBootRom a.toNat := fun hb =>
      hd fun k hk => .inr ((aligned_regions _ _ h.aligned k hk).2.mpr hb)
    have g := fun k hk hr => writeBar_of_readBar p _ _ (readBar_unpopulated p _ (hlt k hk)
      (fun hh => hl ((aligned_regions _ _ h.aligned k hk).1.mp hh)) hr)
    refine spanBar_some _ _ _ _ (fun k hk => ?_) ?_
    · by_cases hr : p.DataReadable (a.toNat + k)
      · rcases hr with hr | hr
        · exact .inl ((writeBar_none p _ (hlt k hk)).mpr hr)
        · exact absurd ((aligned_regions _ _ h.aligned k hk).2.mp hr) hrom
      · exact .inr (g k hk hr)
    · simp only [not_forall] at hd
      obtain ⟨k, hk, hr⟩ := hd
      exact ⟨k, hk, g k hk hr⟩
  · have g := fun k hk => writeBar_rom p _ ((aligned_regions _ _ h.aligned k hk).2.mpr hb)
    exact spanBar_some _ _ _ _ (fun k hk => .inr (g k hk)) ⟨0, z.bytes_pos, g 0 z.bytes_pos⟩
  · rw [spanBar_none]
    exact fun k hk => (writeBar_none p _ (hlt k hk)).mpr (hd k hk)

/-- A load that the span bars is refused; one that reaches a byte without value faults (20 R146). -/
theorem memRead_stops (s : State) (a : Word) (z : Size) (h : AlignedBelow a z) :
    (∀ r, spanBar (readBar s.platform) a.toNat z.bytes = some r → memRead s a z = .refused r) ∧
    (spanBar (readBar s.platform) a.toNat z.bytes = none → ¬ (∀ k, k < z.bytes → s.byteAt (a.toNat + k) ≠ none) →
      memRead s a z = .fault .readOfUnwritten) := by
  have hm : ¬ inMmrSpace a.toNat = true := by have := h.below; simp [inMmrSpace]; omega
  refine ⟨fun r hr => ?_, fun hr hb => ?_⟩ <;> unfold memRead <;>
    rw [if_neg hm, if_neg (by simpa using h.aligned), hr]
  cases e : s.mem.readBytes a.toNat z.bytes with
  | none => rfl
  | some bs =>
    rw [Memory.readBytes_some] at e
    refine absurd (fun k hk => ?_) hb
    have := e.2 k (by omega)
    simp [State.byteAt, this]

/-- A store that the span bars is refused, and so is one to a byte that was fetched (20 R143, R146). -/
theorem memWrite_stops (s : State) (a : Word) (z : Size) (v : Word) (h : AlignedBelow a z) :
    (∀ r, spanBar (writeBar s.platform) a.toNat z.bytes = some r → memWrite s a z v = .refused r) ∧
    (spanBar (writeBar s.platform) a.toNat z.bytes = none → ¬ (∀ k, k < z.bytes → (a.toNat + k) ∉ s.fetched) →
      memWrite s a z v = .refused .storeToCode) := by
  have hm : ¬ inMmrSpace a.toNat = true := by have := h.below; simp [inMmrSpace]; omega
  refine ⟨fun r hr => ?_, fun hr hb => ?_⟩ <;> unfold memWrite <;>
    rw [if_neg hm, if_neg (by simpa using h.aligned), hr]
  simp only
  rw [if_pos]
  rw [fetched_any]
  simpa using hb

/-- Every byte of a register names the register (10 R74, R75). -/
theorem ofAddr_within (x : Nat) (m : CoreMmr) (h1 : mmrAddress m ≤ x) (h2 : x < mmrAddress m + 4) :
    CoreMmr.ofAddr x = some m := by
  obtain ⟨k, rfl⟩ : ∃ k, x = mmrAddress m + k := ⟨x - mmrAddress m, by omega⟩
  have hk : k < 4 := by omega
  cases m with
  | evt j =>
    simp only [mmrAddress]
    unfold CoreMmr.ofAddr
    rw [dif_pos (by omega)]
    congr 2
    apply Fin.ext
    simp
    omega
  | _ => simp only [mmrAddress]; interval_cases k <;> decide

/-- No other address names one. -/
theorem ofAddr_outside (x : Nat) (h : ∀ m, x < mmrAddress m ∨ mmrAddress m + 4 ≤ x) : CoreMmr.ofAddr x = none := by
  have e := fun k => h (.evt k)
  have h1 := h .imask
  have h2 := h .ipend
  have h3 := h .ilat
  have h4 := h .iprio
  have h5 := h .tcntl
  have h6 := h .tperiod
  have h7 := h .tscale
  have h8 := h .tcount
  simp only [mmrAddress] at *
  unfold CoreMmr.ofAddr
  rw [dif_neg, if_neg, if_neg, if_neg, if_neg, if_neg, if_neg, if_neg, if_neg] <;> try omega
  intro hx
  have := e ⟨(x - 0xFFE02000) / 4, by omega⟩
  simp at this
  omega

/-- A move of an index register outside the conditions of 43 R400 stops the instruction (43 R404 to R406). -/
theorem moveIndex_corner (s t : State) (i : Quad) (z : Int) (h : s.IndexCorner i z) :
    moveIndex s t i (some z) = .refused .circularCorner := by
  unfold moveIndex circAdd
  obtain ⟨h1, h2⟩ := h
  simp only
  rw [if_neg (fun g => h1 (BitVec.eq_of_toNat_eq (by simpa using g))), if_neg]
  · rfl
  · intro g
    apply h2
    unfold State.InBuffer
    omega

end Sys2Proof.Machine
end

