-- ==== Sys2Proof/Tests/Slice0.lean ====
section
/-! SUPPORT. Tests: ill-formed terms, words written out from the encodings of 30 and of the opcode table, vectors of spec
95, and for each obligation with hypotheses a state that meets them. -/

namespace Sys2Proof.Tests

open Sys2Proof Sys2Proof.Machine

/-! ### Helpers -/

/-- The start state of most vectors (95, level S), with every handler at 0xFFA01000. -/
def start : State :=
  { State.reset with pc := 0xFFA00100#32, ipend := 0x8000#32, evt := Vector.replicate 16 0xFFA01000#32 }

/-- Level U of 95: User mode. -/
def user : State := { start with ipend := 0#32 }

/-- What is seen of the next state. -/
def see {α : Type} (o : Result) (f : State → α) : Option α :=
  match o with
  | .next t => some (f t)
  | .fault _ | .refused _ => none

/-- The refusal. -/
def refusal (o : Result) : Option Refusal :=
  match o with
  | .refused r => some r
  | .next _ | .fault _ => none

/-- The fault. -/
def fault (o : Result) : Option Fault :=
  match o with
  | .fault r => some r
  | .next _ | .refused _ => none

/-- AZ, AN, AC0, V, VS. -/
def flags (s : State) : List Bool := [s.astat.az, s.astat.an, s.astat.ac0, s.astat.v, s.astat.vs]

/-- Eight bytes of L1 data memory, as 95 has them: 80 91 A2 B3 04 15 26 37. -/
def data : State :=
  { start with
    mem := [(0xFF800000, 0x80#8), (0xFF800001, 0x91#8), (0xFF800002, 0xA2#8), (0xFF800003, 0xB3#8), (0xFF800004, 0x04#8),
      (0xFF800005, 0x15#8), (0xFF800006, 0x26#8), (0xFF800007, 0x37#8)] }

/-- P0 at the start of the data. -/
def atData : State := data.setP .p0 0xFF800000#32

/-- The index register I0 with its base, length and the modifier M1. -/
def indexed (i b l m : Word) : State :=
  { start with
    i := ⟨i, 0#32, 0#32, 0#32⟩
    b := ⟨b, 0#32, 0#32, 0#32⟩
    l := ⟨l, 0#32, 0#32, 0#32⟩
    m := ⟨0#32, m, 0#32, 0#32⟩ }

/-- A parcel list that decodes to a well-formed instruction, and encodes from it. -/
def reads (x : List Parcel × Instr) : Bool :=
  decide (decodeParcels x.1 = (.instr x.2, [])) && decide (encode x.2 = x.1) && x.2.wf

def allRead (l : List (List Parcel × Instr)) : Bool := l.all reads

/-- Both the decoder and the machine refuse the term's words and the term. -/
def refusedTerm (i : Instr) : Bool :=
  !i.wf && decide ((decodeParcels (encode i)).1 = .notInSubset) && decide (refusal (exec i start) = some .notInSubset)

/-! ### Ill-formed terms (30 R178, R179; 41 R260, R262) -/

theorem test_wf_pop_data : refusedTerm (.popReg (.gen (.d .r0))) = true := by decide
theorem test_wf_pop_pointer : refusedTerm (.popReg (.gen (.p .fp))) = true := by decide
theorem test_wf_push_sp : refusedTerm (.pushReg (.gen (.p .sp))) = true := by decide
theorem test_wf_popMult_sp : refusedTerm (.popMultP .sp) = true := by decide
theorem test_wf_popMult_dp_fp : refusedTerm (.popMultDP .r7 .fp) = true := by decide
theorem test_wf_pushMult_fp : refusedTerm (.pushMultP .fp) = true := by decide
theorem test_wf_pushMult_dp_sp : refusedTerm (.pushMultDP .r0 .sp) = true := by decide
theorem test_wf_move_i_rets : refusedTerm (.regMove (.gen (.i .n0)) .rets) = true := by decide
theorem test_wf_move_rets_astat : refusedTerm (.regMove .rets .astat) = true := by decide
theorem test_wf_move_acc_pointer : refusedTerm (.regMove .a0w (.gen (.p .p0))) = true := by decide
theorem test_wf_move_pointer_acc : refusedTerm (.regMove (.gen (.p .p0)) .a1x) = true := by decide

/-! ### Decoding: words from the opcode table's bits, operands at different values -/

theorem test_decode_ProgCtrl_1 : allRead
    [ ([0x0000], .nop),
      ([0x0010], .rts),
      ([0x0011], .rti),
      ([0x0012], .rtx),
      ([0x0013], .rtn),
      ([0x0014], .rte),
      ([0x0020], .idle),
      ([0x0023], .csync),
      ([0x0024], .ssync),
      ([0x0025], .emuexcpt),
      ([0x0035], (.cli .r5)),
      ([0x0042], (.sti .r2)),
      ([0x0056], (.jumpReg .sp)),
      ([0x0060], (.callReg .p0)),
      ([0x0071], (.callPcReg .p1)),
      ([0x0081], (.jumpPcReg .p1)) ] = true := by decide

theorem test_decode_ProgCtrl_2 : allRead
    [ ([0x009B], (.raise 11)),
      ([0x00A1], (.excpt 1)),
      ([0x00B3], (.testset .p3)) ] = true := by decide

theorem test_decode_PushPopReg : allRead
    [ ([0x0134], (.popReg (.lt .k1))),
      ([0x0166], (.pushReg .astat)) ] = true := by decide

theorem test_decode_CC2dreg : allRead
    [ ([0x0201], (.ccToD .r1)),
      ([0x020B], (.dToCc .r3)),
      ([0x0218], .notCc) ] = true := by decide

theorem test_decode_CaCTRL : allRead
    [ ([0x0246], (.prefetch false .sp)),
      ([0x0249], (.flushinv false .p1)),
      ([0x0250], (.flush false .p0)),
      ([0x0278], (.iflush true .p0)) ] = true := by decide

theorem test_decode_CC2stat : allRead
    [ ([0x0300], (.ccSetBit .az)),
      ([0x0321], (.ccOrBit .an)),
      ([0x0346], (.ccAndBit .aq)),
      ([0x036C], (.ccXorBit .ac0)),
      ([0x038D], (.bitSetCc .ac1)),
      ([0x03B0], (.bitOrCc .av0)),
      ([0x03D1], (.bitAndCc .av0s)),
      ([0x03F2], (.bitXorCc .av1)) ] = true := by decide

theorem test_decode_PushPopMultiple : allRead
    [ ([0x0594], (.popMultDP .r2 .p4)),
      ([0x0518], (.popMultD .r3)),
      ([0x0480], (.popMultP .p0)),
      ([0x05CC], (.pushMultDP .r1 .p4)),
      ([0x0558], (.pushMultD .r3)),
      ([0x04C5], (.pushMultP .p5)) ] = true := by decide

theorem test_decode_ccMV : allRead
    [ ([0x06EC], (.movIfNotCc (.p .p5) (.p .p4))),
      ([0x0719], (.movIfCc (.d .r3) (.d .r1))) ] = true := by decide

theorem test_decode_CCflag_1 : allRead
    [ ([0x0827], (.cmpEqD .r7 .r4)),
      ([0x0C2F], (.cmpEqDImm .r7 5)),
      ([0x0861], (.cmpEqP .p1 .p4)),
      ([0x0C4E], (.cmpEqPImm .sp 1)),
      ([0x0895], (.cmpLtD .r5 .r2)),
      ([0x0C97], (.cmpLtDImm .r7 2)),
      ([0x08F0], (.cmpLtP .p0 .sp)),
      ([0x0CCD], (.cmpLtPImm .p5 1)),
      ([0x0927], (.cmpLeD .r7 .r4)),
      ([0x0D08], (.cmpLeDImm .r0 1)),
      ([0x0967], (.cmpLeP .fp .p4)),
      ([0x0D66], (.cmpLePImm .sp 4)),
      ([0x09A8], (.cmpLtuD .r0 .r5)),
      ([0x0DBD], (.cmpLtuDImm .r5 7)),
      ([0x09D1], (.cmpLtuP .p1 .p2)),
      ([0x0DF8], (.cmpLtuPImm .p0 7)) ] = true := by decide

theorem test_decode_CCflag_2 : allRead
    [ ([0x0A1C], (.cmpLeuD .r4 .r3)),
      ([0x0E13], (.cmpLeuDImm .r3 2)),
      ([0x0A79], (.cmpLeuP .p1 .fp)),
      ([0x0E57], (.cmpLeuPImm .fp 2)),
      ([0x0A80], .cmpEqAcc),
      ([0x0B00], .cmpLtAcc),
      ([0x0B80], .cmpLeAcc) ] = true := by decide

theorem test_decode_BRCC : allRead
    [ ([0x1639], (.jumpIfNotCc true 0x239)),
      ([0x1B71], (.jumpIfCc false 0x371)) ] = true := by decide

theorem test_decode_UJUMP : allRead
    [ ([0x28E8], (.jumpShort 0x8e8)) ] = true := by decide

theorem test_decode_REGMV : allRead
    [ ([0x3E5D], (.regMove .reti (.gen (.p .p5)))) ] = true := by decide

theorem test_decode_ALU2op : allRead
    [ ([0x4011], (.asrD .r1 .r2)),
      ([0x4047], (.lsrD .r7 .r0)),
      ([0x4094], (.lslD .r4 .r2)),
      ([0x40E0], (.mulD .r0 .r4)),
      ([0x4296], (.sextHalf .r6 .r2)),
      ([0x42D0], (.zextHalf .r0 .r2)),
      ([0x433E], (.sextByte .r6 .r7)),
      ([0x4371], (.zextByte .r1 .r6)),
      ([0x43BE], (.negD .r6 .r7)),
      ([0x43C3], (.notD .r3 .r0)) ] = true := by decide

theorem test_decode_PTR2op : allRead
    [ ([0x440B], (.subP .p3 .p1)),
      ([0x447A], (.shl2P .p2 .fp)),
      ([0x44CD], (.shr2P .p5 .p1)),
      ([0x4501], (.shr1P .p1 .p0)),
      ([0x4582], (.sumShl1P .p2 .p0)),
      ([0x45CD], (.sumShl2P .p5 .p1)) ] = true := by decide

theorem test_decode_LOGI2op : allRead
    [ ([0x4809], (.bittstNot .r1 1)),
      ([0x496E], (.bittst .r6 13)),
      ([0x4A4C], (.bitset .r4 9)),
      ([0x4BB5], (.bittgl .r5 0x16)),
      ([0x4CF1], (.bitclr .r1 0x1e)),
      ([0x4D3F], (.asrImm .r7 7)),
      ([0x4EEF], (.lsrImm .r7 0x1d)),
      ([0x4FF4], (.lslImm .r4 0x1e)) ] = true := by decide

theorem test_decode_COMP3op : allRead
    [ ([0x5167], (.addD .r5 .r7 .r4)),
      ([0x5283], (.subD .r2 .r3 .r0)),
      ([0x5550], (.andD .r5 .r0 .r2)),
      ([0x56EF], (.orD .r3 .r7 .r5)),
      ([0x59DD], (.xorD .r7 .r5 .r3)),
      ([0x5AF8], (.addP .p3 .p0 .fp)),
      ([0x5DE9], (.addPShl1 .fp .p1 .p5)),
      ([0x5E73], (.addPShl2 .p1 .p3 .sp)) ] = true := by decide

theorem test_decode_COMPI2opD : allRead
    [ ([0x63D2], (.movImmD .r2 0x7a)),
      ([0x677D], (.addImmD .r5 0x6f)) ] = true := by decide

theorem test_decode_COMPI2opP : allRead
    [ ([0x68B6], (.movImmP .sp 0x16)),
      ([0x6FB6], (.addImmP .sp 0x76)) ] = true := by decide

theorem test_decode_LDSTpmod : allRead
    [ ([0x80B3], (.ldPmod .r2 .p3 .sp)),
      ([0x82C4], (.ldPmodLo .r3 .p4 .p0)),
      ([0x8566], (.ldPmodHi .r5 .sp .p4)),
      ([0x8685], (.ldPmodHalfZ .r2 .p5 .p0)),
      ([0x89F2], (.stPmod .r7 .p2 .sp)),
      ([0x8A87], (.stPmodLo .r2 .fp .p0)),
      ([0x8C45], (.stPmodHi .r1 .p5 .p0)),
      ([0x8FC8], (.ldPmodHalfX .r7 .p0 .p1)) ] = true := by decide

theorem test_decode_LDST_1 : allRead
    [ ([0x9020], (.ldDInc .r0 .p4)),
      ([0x904F], (.ldPInc .fp .p1)),
      ([0x9401], (.ldHalfZInc .r1 .p0)),
      ([0x947D], (.ldHalfXInc .r5 .fp)),
      ([0x981C], (.ldByteZInc .r4 .p3)),
      ([0x985C], (.ldByteXInc .r4 .p3)),
      ([0x921F], (.stDInc .r7 .p3)),
      ([0x9256], (.stPInc .sp .p2)),
      ([0x960E], (.stHalfInc .r6 .p1)),
      ([0x9A3D], (.stByteInc .r5 .fp)),
      ([0x908B], (.ldDDec .r3 .p1)),
      ([0x90F1], (.ldPDec .p1 .sp)),
      ([0x949C], (.ldHalfZDec .r4 .p3)),
      ([0x94CA], (.ldHalfXDec .r2 .p1)),
      ([0x98AA], (.ldByteZDec .r2 .p5)),
      ([0x98E2], (.ldByteXDec .r2 .p4)) ] = true := by decide

theorem test_decode_LDST_2 : allRead
    [ ([0x92BB], (.stDDec .r3 .fp)),
      ([0x92CE], (.stPDec .sp .p1)),
      ([0x96BA], (.stHalfDec .r2 .fp)),
      ([0x9A9A], (.stByteDec .r2 .p3)),
      ([0x912E], (.ldDInd .r6 .p5)),
      ([0x915D], (.ldPInd .p5 .p3)),
      ([0x9529], (.ldHalfZInd .r1 .p5)),
      ([0x9568], (.ldHalfXInd .r0 .p5)),
      ([0x992F], (.ldByteZInd .r7 .p5)),
      ([0x9978], (.ldByteXInd .r0 .fp)),
      ([0x9335], (.stDInd .r5 .sp)),
      ([0x9361], (.stPInd .p1 .p4)),
      ([0x970B], (.stHalfInd .r3 .p1)),
      ([0x9B02], (.stByteInd .r2 .p0)) ] = true := by decide

theorem test_decode_dspLDST_1 : allRead
    [ ([0x9C1C], (.ldIInc .r4 .n3)),
      ([0x9C3A], (.ldILoInc .r2 .n3)),
      ([0x9C5D], (.ldIHiInc .r5 .n3)),
      ([0x9E04], (.stIInc .r4 .n0)),
      ([0x9E22], (.stILoInc .r2 .n0)),
      ([0x9E59], (.stIHiInc .r1 .n3)),
      ([0x9C90], (.ldIDec .r0 .n2)),
      ([0x9CA4], (.ldILoDec .r4 .n0)),
      ([0x9CC3], (.ldIHiDec .r3 .n0)),
      ([0x9E84], (.stIDec .r4 .n0)),
      ([0x9EA7], (.stILoDec .r7 .n0)),
      ([0x9EC5], (.stIHiDec .r5 .n0)),
      ([0x9D1C], (.ldIInd .r4 .n3)),
      ([0x9D28], (.ldILoInd .r0 .n1)),
      ([0x9D4C], (.ldIHiInd .r4 .n1)),
      ([0x9F02], (.stIInd .r2 .n0)) ] = true := by decide

theorem test_decode_dspLDST_2 : allRead
    [ ([0x9F2C], (.stILoInd .r4 .n1)),
      ([0x9F53], (.stIHiInd .r3 .n2)),
      ([0x9D8F], (.ldIMod .r7 .n1 .n0)),
      ([0x9FCB], (.stIMod .r3 .n1 .n2)) ] = true := by decide

theorem test_decode_dagMODim : allRead
    [ ([0x9E69], (.addIM .n1 .n2)),
      ([0x9E77], (.subIM .n3 .n1)) ] = true := by decide

theorem test_decode_dagMODik : allRead
    [ ([0x9F62], (.addI2 .n2)),
      ([0x9F64], (.subI2 .n0)),
      ([0x9F69], (.addI4 .n1)),
      ([0x9F6C], (.subI4 .n0)) ] = true := by decide

theorem test_decode_LDSTii : allRead
    [ ([0xA0A6], (.ldDOff .r6 .p4 2)),
      ([0xA541], (.ldHalfZOff .r1 .p0 5)),
      ([0xAB23], (.ldHalfXOff .r3 .p4 12)),
      ([0xAE47], (.ldPOff .fp .p0 9)),
      ([0xB154], (.stDOff .r4 .p2 5)),
      ([0xB784], (.stHalfOff .r4 .p0 14)),
      ([0xBED8], (.stPOff .p0 .p3 11)) ] = true := by decide

theorem test_decode_LDSTiiFP : allRead
    [ ([0xB933], (.ldDFp .r3 0x13)),
      ([0xB96A], (.ldPFp .p2 0x16)),
      ([0xBA05], (.stDFp .r5 0)),
      ([0xBB89], (.stPFp .p1 0x18)) ] = true := by decide

theorem test_decode_LoopSetup : allRead
    [ ([0xE098, 0x019B], (.lsetup .k1 8 0x19b)),
      ([0xE0A0, 0x121D], (.lsetupP .k0 0 .p1 0x21d)),
      ([0xE0E4, 0x6055], (.lsetupPHalf .k0 4 .sp 0x55)) ] = true := by decide

theorem test_decode_LDIMMhalf : allRead
    [ ([0xE118, 0x996B], (.ldiLo (.b .n0) 0x996b)),
      ([0xE153, 0x2B41], (.ldiHi (.i .n3) 0x2b41)),
      ([0xE18E, 0xA6FB], (.ldiZ (.p .sp) 0xa6fb)),
      ([0xE13A, 0x917F], (.ldiX (.b .n2) 0x917f)) ] = true := by decide

theorem test_decode_CALLa : allRead
    [ ([0xE24A, 0x1CF6], (.jumpLong 0x4a1cf6)),
      ([0xE316, 0x6B63], (.callLong 0x166b63)) ] = true := by decide

theorem test_decode_LDSTidxI : allRead
    [ ([0xE432, 0x083B], (.ldDIdx .r2 .sp 0x83b)),
      ([0xE519, 0x0FF4], (.ldPIdx .p1 .p3 0xff4)),
      ([0xE602, 0xB8AE], (.stDIdx .r2 .p0 0xb8ae)),
      ([0xE70E, 0xE71C], (.stPIdx .sp .p1 0xe71c)),
      ([0xE47C, 0x7D36], (.ldHalfZIdx .r4 .fp 0x7d36)),
      ([0xE547, 0x23E5], (.ldHalfXIdx .r7 .p0 0x23e5)),
      ([0xE661, 0xF29D], (.stHalfIdx .r1 .p4 0xf29d)),
      ([0xE4A3, 0x6912], (.ldByteZIdx .r3 .p4 0x6912)),
      ([0xE59F, 0xFCE6], (.ldByteXIdx .r7 .p3 0xfce6)),
      ([0xE6B1, 0xF540], (.stByteIdx .r1 .sp 0xf540)) ] = true := by decide

theorem test_decode_linkage : allRead
    [ ([0xE800, 0x931B], (.link 0x931b)),
      ([0xE801, 0x0000], .unlink) ] = true := by decide

/-- Every register of 10 R73 in `[--SP] = reg`: the group is bits 5:3, the number bits 2:0 (30 R178). -/
theorem test_decode_registers : allRead
    [ ([0x0147], .pushReg (.gen (.d .r7))), ([0x0148], .pushReg (.gen (.p .p0))), ([0x014F], .pushReg (.gen (.p .fp))),
      ([0x0150], .pushReg (.gen (.i .n0))), ([0x0157], .pushReg (.gen (.m .n3))), ([0x0159], .pushReg (.gen (.b .n1))),
      ([0x015E], .pushReg (.gen (.l .n2))), ([0x0160], .pushReg .a0x), ([0x0161], .pushReg .a0w),
      ([0x0162], .pushReg .a1x), ([0x0163], .pushReg .a1w), ([0x0166], .pushReg .astat), ([0x0167], .pushReg .rets),
      ([0x0170], .pushReg (.lc .k0)), ([0x0171], .pushReg (.lt .k0)), ([0x0172], .pushReg (.lb .k0)),
      ([0x0173], .pushReg (.lc .k1)), ([0x0174], .pushReg (.lt .k1)), ([0x0175], .pushReg (.lb .k1)),
      ([0x0176], .pushReg .cycles), ([0x0177], .pushReg .cycles2), ([0x0178], .pushReg .usp),
      ([0x0179], .pushReg .seqstat), ([0x017A], .pushReg .syscfg), ([0x017B], .pushReg .reti), ([0x017C], .pushReg .retx),
      ([0x017D], .pushReg .retn), ([0x017E], .pushReg .rete), ([0x017F], .pushReg .emudat) ] = true := by decide

/-- Reserved register slots, reserved fields and formats outside the subset (30 R176 to R210; 95 V283 to V289). -/
theorem test_decode_refused :
    ([[0x0015], [0x0165], [0x016C], [0x0302], [0x02A0], [0x05B6], [0xC000, 0], [0xE4C0, 0], [0xE801, 1],
      [0xE0A2, 0x8005]] : List (List Parcel)).all (fun ps => decide ((decodeParcels ps).1 = .notInSubset)) = true ∧
    (decodeParcels [0xC800, 0, 0, 0]).1 = .multiIssue := by decide

/-- A table word is the first parcel in bits 31:16 (log entry 11). -/
theorem test_table_word :
    decodeTableWord 32 0xE6C2FFFE = none ∧ decodeTableWord 32 0xE642FFFE = some (.stHalfIdx .r2 .p0 0xFFFE) ∧
    decodeTableWord 16 0x5011 = some (.addD .r0 .r1 .r2) := by decide

/-- From reset with the word placed where the step fetches, that instruction runs (log entry 10). -/
theorem test_fetch_word :
    see (step (State.reset.withFetchWord 16 0x61FB)) (fun t => (t.getD .r3, t.pc)) = some (0x3F#32, 0xFFA00002#32) ∧
    see (step (State.reset.withFetchWord 32 0xE1021234)) (fun t => (t.getD .r2, t.pc)) =
      some (0x1234#32, 0xFFA00004#32) := by decide

/-! ### Vectors of spec 95, part B -/

theorem test_V2_add :
    see (exec (.addD .r0 .r1 .r2) ((start.setD .r1 0x7FFFFFFF#32).setD .r2 1#32)) (fun t => (t.getD .r0, flags t, t.pc))
      = some (0x80000000#32, [false, true, false, true, true], 0xFFA00102#32) := by decide

theorem test_V4_add_carry :
    see (exec (.addD .r0 .r1 .r2) ((start.setD .r1 0x80000000#32).setD .r2 0x80000000#32)) (fun t => (t.getD .r0, flags
      t)) = some (0#32, [true, false, true, true, true]) := by decide

theorem test_V7_sub :
    see (exec (.subD .r0 .r1 .r2) ((start.setD .r1 0x80000000#32).setD .r2 1#32)) (fun t => (t.getD .r0, flags t)) =
      some (0x7FFFFFFF#32, [false, false, true, true, true]) := by decide

theorem test_V16_addImm :
    see (exec (.addImmD .r0 63) (start.setD .r0 0x7FFFFFC1#32)) (fun t => (t.getD .r0, flags t)) = some (0x80000000#32,
      [false, true, false, true, true]) := by decide

theorem test_V10_or :
    see (exec (.orD .r0 .r1 .r2) ((start.setD .r1 0xF0F0F0F0#32).setD .r2 0x0FF00FF0#32)) (fun t => (t.getD .r0, flags
      t)) = some (0xFFF0FFF0#32, [false, true, false, false, false]) := by decide

theorem test_V19_asr :
    see (exec (.asrD .r0 .r1) ((start.setD .r0 0x7FFFFFFF#32).setD .r1 0xFFFFFFFF#32)) (fun t => (t.getD .r0, flags t))
      = some (0#32, [true, false, false, false, false]) := by decide

theorem test_V22_lsl :
    see (exec (.lslD .r0 .r1) ((start.setD .r0 3#32).setD .r1 31#32)) (fun t => t.getD .r0) = some 0x80000000#32 := by decide

theorem test_V25_mul :
    see (exec (.mulD .r0 .r1) ((start.setD .r0 0xFFFFFFFF#32).setD .r1 0xFFFFFFFE#32)) (fun t => t.getD .r0) = some 2#32 := by decide

theorem test_V28_sextByte :
    see (exec (.sextByte .r0 .r1) (start.setD .r1 0x12345680#32)) (fun t => (t.getD .r0, flags t)) = some
      (0xFFFFFF80#32, [false, true, false, false, false]) := by decide

theorem test_V37_lsrImm :
    see (exec (.lsrImm .r0 1) (start.setD .r0 0x80000001#32)) (fun t => t.getD .r0) = some 0x40000000#32 := by decide

theorem test_V43_bittgl :
    see (exec (.bittgl .r0 4) (start.setD .r0 0x10#32)) (fun t => (t.getD .r0, flags t)) = some (0#32, [true, false,
      false, false, false]) := by decide

theorem test_V46_addPShl1 :
    see (exec (.addPShl1 .p0 .p1 .p2) ((start.setP .p1 0x1000#32).setP .p2 3#32)) (fun t => t.getP .p0) = some 0x1006#32 := by decide

theorem test_V49_addImm_sp :
    see (exec (.addImmP .sp (-12)) (start.setSp 0xFFB00F00#32)) (fun t => t.spSup) = some 0xFFB00EF4#32 := by decide

theorem test_V64_move_acc :
    see (exec (.regMove .a1w (.gen (.d .r3))) (start.setD .r3 0xDEADBEEF#32)) (fun t => t.a1) = some 0x00DEADBEEF#40 := by decide

theorem test_V70_usp_user :
    see (exec (.regMove .usp (.gen (.d .r0))) user) (fun t => (t.retx, t.seqstat, t.ipend, t.pc)) = some (0xFFA00100#32,
      0x2E#32, 8#32, 0xFFA01000#32) := by decide

theorem test_V67_astat_reserved :
    refusal (exec (.regMove .astat (.gen (.d .r0))) (start.setD .r0 0x80#32)) = some .reservedBitWrite := by decide

theorem test_V91_compare :
    see (exec (.cmpLtD .r0 .r1) ((start.setD .r0 0xFFFFFFFF#32).setD .r1 1#32)) (fun t => (t.astat.cc, flags t)) = some
      (true, [false, true, true, false, false]) := by decide

theorem test_V103_compare_acc :
    see (exec (.cmpLeAcc) { start with a0 := 2#40, a1 := 0xFFFFFFFFFF#40 }) (fun t => (t.astat.cc, flags t)) = some
      (false, [false, false, false, false, false]) := by decide

theorem test_V121_jump :
    see (exec (.jumpShort 0x800) start) (fun t => t.pc) = some 0xFF9FF100#32 := by decide

theorem test_V130_call :
    see (exec (.callLong 0x100) start) (fun t => (t.rets, t.pc)) = some (0xFFA00104#32, 0xFFA00300#32) := by decide

theorem test_V136_lsetup :
    see (exec (.lsetupPHalf .k1 2 .p0 8) (start.setP .p0 7#32)) (fun t => (t.loop1, t.pc)) = some (⟨3#32, 0xFFA00104#32,
      0xFFA00110#32⟩, 0xFFA00104#32) := by decide

theorem test_V141_loop_falls_out :
    see (exec (.nop) { start with loop0 := ⟨1#32, 0xFFA000FC#32, 0xFFA00100#32⟩ }) (fun t => (t.loop0.lc, t.pc)) = some
      (0#32, 0xFFA00102#32) := by decide

theorem test_loop_goes_back :
    see (exec (.nop) { start with loop0 := ⟨2#32, 0xFFA000FC#32, 0xFFA00100#32⟩ }) (fun t => (t.loop0.lc, t.pc)) = some
      (1#32, 0xFFA000FC#32) := by decide

theorem test_V145_excpt :
    see (exec (.excpt 5) user) (fun t => (t.retx, t.seqstat, t.ipend, t.pc)) = some (0xFFA00102#32, 5#32, 8#32,
      0xFFA01000#32) := by decide

theorem test_V148_double_fault :
    fault (exec (.excpt 5) { start with ipend := 0x8008#32 }) = some .doubleFault := by decide

theorem test_V151_cli :
    see (exec (.cli .r0) { start with imask := 0xC01F#32 }) (fun t => (t.getD .r0, t.imask)) = some (0xC01F#32, 0x1F#32) := by decide

theorem test_V163_rti :
    see (exec (.rti) { start with reti := 0xFFA00200#32 }) (fun t => (t.ipend, t.pc, t.mode)) = some (0#32,
      0xFFA00200#32, .user) := by decide

theorem test_V172_emuexcpt :
    refusal (exec .emuexcpt start) = some .emulation := by decide

theorem test_V181_testset :
    see (exec (.testset .p0) ({ start with mem := [(0x1003, 1#8)] }.setP .p0 0x1003#32)) (fun t => (t.astat.cc, t.byteAt
      0x1003)) = some (false, some 0x81#8) := by decide

theorem test_V187_load_dec :
    see (exec (.ldDDec .r1 .p0) (data.setP .p0 0xFF800004#32)) (fun t => (t.getD .r1, t.getP .p0)) = some
      (0x37261504#32, 0xFF800000#32) := by decide

theorem test_V196_misaligned :
    see (exec (.ldDInd .r1 .p0) (data.setP .p0 0xFF800002#32)) (fun t => (t.retx, t.seqstat, t.ipend, t.pc)) = some
      (0xFFA00100#32, 0x24#32, 0x8008#32, 0xFFA01000#32) := by decide

/-- A misaligned access leaves its address in DCPLB_FAULT_ADDR and takes one free value (60 R445). -/
theorem test_misaligned_record :
    see (exec (.stHalfInd .r1 .p0) (data.setP .p0 0xFF800003#32)) (fun t => (t.sys.dcplbFaultAddr, t.draws,
      t.sys.icplbFaultAddr)) = some (0xFF800003#32, 1, 0#32) := by decide

/-- An odd pc leaves itself in ICPLB_FAULT_ADDR (60 R445). -/
theorem test_odd_fetch_record :
    see (step { data with pc := 0xFFA00101#32 }) (fun t => (t.sys.icplbFaultAddr, t.draws, t.sys.dcplbFaultAddr)) =
      some (0xFFA00101#32, 1, 0#32) := by decide

/-- A privileged instruction in User mode leaves no record (60 R445). -/
theorem test_supervisor_record :
    see (exec .rti user) (fun t => (t.sys == user.sys, t.draws)) = some (true, 0) := by decide

theorem test_V199_unwritten :
    fault (exec (.ldDInd .r1 .p0) (data.setP .p0 0xFF800008#32)) = some .readOfUnwritten := by decide

theorem test_V202_store :
    see (exec (.stDInd .r1 .p0) (atData.setD .r1 0x11223344#32)) (fun t => (t.byteAt 0xFF800000, t.byteAt 0xFF800003,
      t.byteAt 0xFF800004)) = some (some 0x44#8, some 0x11#8, some 4#8) := by decide

theorem test_V211_imask :
    see (exec (.stDInd .r1 .p0) ((start.setP .p0 0xFFE02104#32).setD .r1 0xC000#32)) (fun t => t.imask) = some 0xC01F#32 := by decide

theorem test_V214_mmr_width :
    refusal (exec (.stHalfInd .r1 .p0) (start.setP .p0 0xFFE02104#32)) = some .mmrWidth := by decide

theorem test_V223_frame :
    see (exec (.ldPFp .p2 30) (data.setP .fp 0xFF800008#32)) (fun t => t.getP .p2) = some 0xB3A29180#32 := by decide

theorem test_V226_long_offset :
    see (exec (.ldDIdx .r1 .p0 0xFFFF) (data.setP .p0 0xFF800004#32)) (fun t => t.getD .r1) = some 0xB3A29180#32 := by decide

theorem test_V232_half_modified :
    see (exec (.ldPmodLo .r2 .p0 .p1) ((atData.setP .p1 4#32).setD .r2 0xAAAA5555#32)) (fun t => (t.getD .r2, t.getP
      .p0)) = some (0xAAAA9180#32, 0xFF800004#32) := by decide

theorem test_V184_pop_reti :
    see (exec (.popReg .reti) ({ start with mem := [(0xFFB00EFC, 0#8), (0xFFB00EFD, 2#8), (0xFFB00EFE, 0xA0#8),
      (0xFFB00EFF, 0xFF#8)] }.setSp 0xFFB00EFC#32)) (fun t => (t.reti, t.ipend, t.spSup)) = some (0xFFA00200#32,
      0x8010#32, 0xFFB00F00#32) := by decide

theorem test_V247_push_user :
    see (exec (.pushReg (.gen (.d .r3))) ({ user with usp := 0xFF900100#32 }.setD .r3 0x33333333#32)) (fun t => (t.usp,
      t.spSup, t.byteAt 0xFF9000FC, t.byteAt 0xFF900100)) = some (0xFF9000FC#32, 0#32, some 0x33#8, none) := by decide

theorem test_V253_push_edge :
    refusal (exec (.pushMultD .r6) (start.setSp 0xFFB00004#32)) = some .unpopulatedAddress := by decide

theorem test_push_order :
    see (exec (.pushMultDP .r7 .p5) (((start.setSp 0xFFB00F00#32).setD .r7 0x11#32).setP .p5 0x22#32)) (fun t =>
      (t.spSup, t.byteAt 0xFFB00EFC, t.byteAt 0xFFB00EF8)) = some (0xFFB00EF8#32, some 0x11#8, some 0x22#8) := by decide

theorem test_V256_unlink :
    see (exec (.unlink) ({ start with mem := [(0xFFB00EF8, 0x80#8), (0xFFB00EF9, 0x0F#8), (0xFFB00EFA, 0xB0#8),
      (0xFFB00EFB, 0xFF#8), (0xFFB00EFC, 0x44#8), (0xFFB00EFD, 4#8), (0xFFB00EFE, 0xA0#8), (0xFFB00EFF, 0xFF#8)]
      }.setP .fp 0xFFB00EF8#32)) (fun t => (t.spSup, t.getP .fp, t.rets)) = some (0xFFB00F00#32, 0xFFB00F80#32,
      0xFFA00444#32) := by decide

theorem test_V259_circular :
    see (exec (.subI4 .n0) (indexed 0xFF800000#32 0xFF800000#32 16#32 0#32)) (fun t => t.i.get .n0) = some 0xFF80000C#32 := by decide

theorem test_V265_circular_corner :
    refusal (exec (.addIM .n0 .n1) (indexed 0xFF800000#32 0xFF800000#32 8#32 12#32)) = some .circularCorner := by decide

theorem test_V274_index_store :
    see (exec (.stIHiDec .r2 .n0) ((indexed 0xFF80000A#32 0#32 0#32 0#32).setD .r2 0xAAAA5555#32)) (fun t => (t.i.get
      .n0, t.byteAt 0xFF80000A, t.byteAt 0xFF80000B)) = some (0xFF800008#32, some 0xAA#8, some 0xAA#8) := by decide

theorem test_V280_flush :
    see (exec (.flush true .p0) (start.setP .p0 0xFFFFFFE0#32)) (fun t => t.getP .p0) = some 0#32 := by decide

/-! ### Witnesses: states and operands that meet the hypotheses of the obligations

Each theorem names its obligation. Where the hypotheses are only `Fits`, `witness_Fits` is the witness: SumsAndDifferences,
LogicalResults, Shifts, ResultsWithoutFlags, WritesOfCc, both statements of compares, PointerArithmetic, LoadImmediate,
CacheControl, NoOperationAndIdle. -/

/-- The last addresses at which an instruction of 2 and of 4 bytes fits, and the first at which it does not. -/
theorem witness_Fits :
    start.Fits 2 ∧ start.Fits 4 ∧ { start with pc := 0xFFFFFFFC#32 }.Fits 2 ∧ { start with pc := 0xFFFFFFFA#32 }.Fits 4 ∧
    ¬ { start with pc := 0xFFFFFFFE#32 }.Fits 2 ∧ ¬ { start with pc := 0xFFFFFFFC#32 }.Fits 4 := by
  unfold State.Fits; decide

theorem witness_RegistersReadBack : user.mode = .user ∧ start.mode ≠ .user := by decide

theorem witness_DecodeEncode : Instr.wf (.popReg .rets) = true ∧ Instr.wf (.pushMultDP .r7 .p5) = true := by decide

theorem witness_RefusedEncodings :
    (0xC800 ≤ (0xC800#16).toNat ∧ (0xCFFF#16).toNat < 0xD000) ∧ (0xC000 ≤ (0xC000#16).toNat ∧ (0xC7FF#16).toNat < 0xC800) ∧
    (0xD800 ≤ (0xD800#16).toNat ∧ (0xDFFF#16).toNat < 0xE000) ∧ (0xD000 ≤ (0xD000#16).toNat ∧ (0xD7FF#16).toNat < 0xD800) := by
  decide

/-- An environment that does nothing, and one in which everything arrives at once. -/
def busy : State :=
  { start with
    timer := ⟨3#32, 1#32, 0#32, 1#32⟩
    arrivals := [⟨true, true⟩] }

theorem witness_BoundaryLatches : start.arrivals = [] ∧ busy.arrivals = [⟨true, true⟩] := by decide

/-- The NMI and the timer's event are latched together, and nothing else. -/
theorem test_boundary : busy.boundary.ilat = 0x44#32 ∧ busy.boundary.timer.tcntl = 0xB#32 := by decide

/-- The sources, all unmasked, go to their reset events IVG7 to IVG13 (60 R453); source 0 alone to IVG7. -/
theorem test_sic :
    latchSources { start.sys with sicIsr := 0xFFFFFF#32, sicImask := 0xFFFFFF#32 } 0#32 = 0x3F80#32 ∧
    latchSources { start.sys with sicIsr := 0xFFFFFF#32, sicImask := 1#32 } 0#32 = 0x80#32 := by decide

/-- EndOfAddressSpace: the last two and four bytes, an instruction of each kind, and an exception there. -/
theorem witness_EndOfAddressSpace :
    ¬ { start with pc := 0xFFFFFFFE#32 }.Fits (2 * (encode .nop).length) ∧ onlyGoesOn .nop = true ∧
    { start with pc := 0xFFFFFFFA#32 }.Fits (2 * (encode (.ldiLo (.d .r0) 0#16)).length) ∧
    ¬ { start with pc := 0xFFFFFFFC#32 }.Fits (2 * (encode (.ldiLo (.d .r0) 0#16)).length) ∧
    onlyGoesOn (.ldiLo (.d .r0) 0#16) = true ∧ leavesSequence (.cli .r0) = false ∧
    (see (exec (.cli .r0) { user with pc := 0xFFFFFFFE#32 }) State.mode) = some .supervisor ∧
    { start with pc := 0xFFFFFFFE#32 }.NotAtLoopEnd := by
  unfold State.Fits State.NotAtLoopEnd State.Ends; decide

/-- The NMI, the interrupt of lowest priority, and an idle core without an event. -/
theorem witness_EventEntry :
    { start with ilat := 4#32 }.MustAccept 2 ∧ { user with ilat := 0x8000#32, imask := 0x801F#32 }.MustAccept 15 ∧
    (∀ k, ¬ { start with idle := true }.CanAccept k) := by
  refine ⟨⟨?_, ?_⟩, ⟨?_, ?_⟩, ?_⟩ <;> (unfold State.CanAccept; decide)

/-- Code at the pc: a 16-bit and a 32-bit instruction. -/
def code (bs : List Host.Cell) : State := { start with mem := bs }

theorem witness_StepRunsDecoded :
    (∀ k, ¬ (code [(0xFFA00100, 0#8), (0xFFA00101, 0#8)]).CanAccept k) ∧
    decodeParcels [0#16] = (.instr .nop, []) ∧
    (code [(0xFFA00100, 0#8), (0xFFA00101, 0#8)]).HoldsCode 0xFFA00100 ([0#16].flatMap parcelBytes) ∧
    decodeParcels [0xE801#16, 0#16] = (.instr .unlink, []) ∧
    (code [(0xFFA00100, 1#8), (0xFFA00101, 0xE8#8), (0xFFA00102, 0#8), (0xFFA00103, 0#8)]).HoldsCode 0xFFA00100
      ([0xE801#16, 0#16].flatMap parcelBytes) := by
  have fetchable : ∀ k, k < 4 → start.platform.Fetchable (0xFFA00100 + k) := by
    unfold Platform.Fetchable Platform.DataRam; decide
  refine ⟨?_, by decide, fun k h => ⟨?_, fetchable k ?_, by simp [code, start, State.reset]⟩, by decide,
    fun k h => ⟨?_, fetchable k h, by simp [code, start, State.reset]⟩⟩
  · unfold State.CanAccept; decide
  · revert k; decide
  · exact Nat.lt_trans h (by decide)
  · revert k; decide

/-- An odd pc with and without an exception in service, a pc in L1 data memory, a stored byte, and a byte without value. -/
theorem witness_FetchStops :
    (∀ k, ¬ start.CanAccept k) ∧ start.pc.toNat % 2 = 0 ∧ { start with pc := 0xFFA00101#32 }.pc.toNat % 2 = 1 ∧
    start.CanTrap ∧ ¬ { start with ipend := 8#32 }.CanTrap ∧ ¬ start.platform.Fetchable 0xFF800000 ∧
    (∀ k, k < 2 → start.platform.Fetchable (start.pc.toNat + k)) ∧
    (∃ k, k < 2 ∧ (start.pc.toNat + k) ∈ { start with stored := [0xFFA00101] }.stored) ∧
    (∀ k, k < 2 → (start.pc.toNat + k) ∉ start.stored) ∧ (∃ k, k < 2 ∧ start.byteAt (start.pc.toNat + k) = none) := by
  refine ⟨?_, by decide, by decide, ?_, ?_, ?_, ?_, by decide, by decide, by decide⟩
  · unfold State.CanAccept; decide
  · unfold State.CanTrap; decide
  · unfold State.CanTrap; decide
  · unfold Platform.Fetchable Platform.DataRam; decide
  · unfold Platform.Fetchable Platform.DataRam; decide

theorem witness_ConditionalMoves :
    start.Fits 2 ∧ { start with astat := { start.astat with cc := true } }.astat.cc = true ∧ start.astat.cc = false := by
  unfold State.Fits; decide

/-- A move to each kind of register with a side condition, at values on its boundary. -/
theorem witness_RegisterMoves :
    start.Fits 2 ∧ Reg.movable .astat (.gen (.d .r0)) = true ∧ start.Accepts .astat 0x02001004#32 ∧
    start.Accepts .syscfg 0x32#32 ∧ start.Accepts (.lc .k0) 1#32 ∧ start.Accepts (.lt .k1) 0xFFFFFFFE#32 ∧
    start.mayName .reti = true ∧ user.mayName .rets = true := by
  unfold State.Accepts State.Ends State.Fits; decide

theorem witness_RefusedMoves :
    Reg.movable .rets .astat = false ∧ Reg.isDP (.gen (.d .r0)) = true ∧ start.mode ≠ .user ∧
    ¬ start.Accepts .syscfg 0x31#32 ∧ (0xFFFFFFFF#32).toNat % 2 = 1 ∧ 0x80#32 &&& ~~~astatMask ≠ 0#32 ∧
    0x4#32 &&& ~~~astatMask = 0#32 ∧ ¬ start.Accepts .astat 4#32 ∧ ¬ start.Accepts .astat 8#32 := by
  unfold State.Accepts; decide

/-- Jumps, ConditionalJumps, Calls: no loop is active, or the counter of one whose end is elsewhere. -/
theorem witness_NotAtLoopEnd :
    start.NotAtLoopEnd ∧ { start with loop0 := ⟨1#32, 0#32, 0xFFA00102#32⟩ }.NotAtLoopEnd ∧
    { start with loop1 := ⟨0#32, 0#32, 0xFFA00100#32⟩ }.NotAtLoopEnd := by
  unfold State.NotAtLoopEnd State.Ends; decide

theorem witness_ConditionalJumps :
    start.NotAtLoopEnd ∧ start.Fits 2 ∧ start.astat.cc = false ∧
    { start with astat := { start.astat with cc := true } }.astat.cc = true := by
  unfold State.NotAtLoopEnd State.Ends State.Fits; decide

/-- The least offsets and the least pointers. -/
theorem witness_LoopSetup :
    start.Fits 4 ∧ start.NotAtLoopEnd ∧ 1 ≤ (1#4).toNat ∧ (1#4).toNat ≤ (1#10).toNat ∧
    (start.setP .p0 1#32).getP .p0 ≠ 0#32 ∧ 2 ≤ ((start.setP .p0 2#32).getP .p0).toNat := by
  unfold State.NotAtLoopEnd State.Ends State.Fits; decide

theorem witness_LoopCorners :
    (0#10).toNat < (1#4).toNat ∧ start.getP .p0 = 0#32 ∧ ((start.setP .p0 1#32).getP .p0).toNat < 2 ∧
    breaksLoop .idle = true ∧ isSupervisorOnly .idle = true ∧ start.mode ≠ .user ∧
    ¬ { start with loop0 := ⟨1#32, 0#32, 0xFFA00100#32⟩ }.NotAtLoopEnd ∧
    { start with loop0 := ⟨1#32, 0#32, 0xFFA00100#32⟩ }.Ends
      ({ start with loop0 := ⟨1#32, 0#32, 0xFFA00100#32⟩ }.getLoop .k0) := by
  unfold State.NotAtLoopEnd State.Ends; decide

/-- The levels 1, 2, 3, 5 and 15, with 4 set beside them. -/
theorem witness_EventReturns :
    State.reset.InService 1 ∧ { start with ipend := 0x14#32 }.InService 2 ∧ { start with ipend := 0x18#32 }.InService 3 ∧
    { start with ipend := 0x30#32 }.InService 5 ∧ start.InService 15 ∧ start.NotAtLoopEnd ∧ start.reti.toNat % 2 = 0 ∧
    { start with reti := 1#32 }.reti.toNat % 2 = 1 := by
  unfold State.InService State.NotAtLoopEnd State.Ends; decide

theorem witness_EmulationInstructions :
    start.NotAtLoopEnd ∧ start.mode = .supervisor ∧ { start with ipend := 1#32 }.mode = .emulation ∧
    start.rete.toNat % 2 = 0 := by
  unfold State.NotAtLoopEnd State.Ends; decide

theorem witness_RaiseLatches :
    start.mode ≠ .user ∧ start.NotAtLoopEnd ∧ start.Fits 2 ∧ 5 ≤ (5#4).toNat ∧ 5 ≤ (15#4).toNat := by
  unfold State.NotAtLoopEnd State.Ends State.Fits; decide

theorem witness_ExceptionByExcpt :
    start.NotAtLoopEnd ∧ start.CanTrap ∧ ¬ { start with ipend := 8#32 }.CanTrap ∧ ¬ State.reset.CanTrap := by
  unfold State.NotAtLoopEnd State.Ends State.CanTrap; decide

theorem witness_InterruptMask :
    start.mode ≠ .user ∧ start.NotAtLoopEnd ∧ start.Fits 2 ∧ ((start.setD .r0 0xFFFF#32).getD .r0).toNat < 2 ^ 16 ∧
    2 ^ 16 ≤ ((start.setD .r0 0x10000#32).getD .r0).toNat := by
  unfold State.NotAtLoopEnd State.Ends State.Fits; decide

theorem witness_NoOperationAndIdle : start.Fits 2 ∧ start.mode ≠ .user ∧ start.NotAtLoopEnd := by
  unfold State.NotAtLoopEnd State.Ends State.Fits; decide

theorem witness_SupervisorOnlyTraps :
    user.mode = .user ∧ Instr.wf (.popReg .usp) = true ∧ isSupervisorOnly (.popReg .usp) = true ∧
    isSupervisorOnly (.regMove (.gen (.d .r0)) .emudat) = true := by decide

/-! The accesses: the first and the last bytes of a bank, each width, and a memory-mapped register. -/

theorem loads_word : atData.Loads 0xFF800004#32 4 0x37261504#32 := by
  refine .inl ?_
  unfold State.LoadsRam State.Holds Platform.DataReadable Platform.DataRam; decide

theorem loads_half : atData.Loads 0xFF800000#32 2 0x9180#32 := by
  refine .inl ?_
  unfold State.LoadsRam State.Holds Platform.DataReadable Platform.DataRam; decide

theorem loads_byte : atData.Loads 0xFF800007#32 1 0x37#32 := by
  refine .inl ?_
  unfold State.LoadsRam State.Holds Platform.DataReadable Platform.DataRam; decide

theorem loads_register : start.Loads 0xFFE02104#32 4 0x1F#32 := by
  refine .inr ⟨by decide, rfl, .imask, by decide, by decide, by decide⟩

theorem can_store :
    start.CanStore 0xFF807FFC#32 4 ∧ start.CanStore 0xFF807FFE#32 2 ∧ start.CanStore 0xFF807FFF#32 1 := by
  refine ⟨?_, ?_, ?_⟩ <;> (unfold State.CanStore Platform.DataRam; decide)

theorem witness_LoadsThroughPointers :
    atData.Fits 2 ∧ (atData.setP .p0 0xFF800004#32).getP .p0 = 0xFF800004#32 ∧ PReg.p1 ≠ PReg.p0 ∧
    atData.Loads 0xFF800004#32 4 0x37261504#32 ∧ atData.Loads 0xFF800000#32 2 0x9180#32 ∧
    atData.Loads 0xFF800007#32 1 0x37#32 ∧ start.Loads 0xFFE02104#32 4 0x1F#32 :=
  ⟨by unfold State.Fits; decide, by decide, by decide, loads_word, loads_half, loads_byte, loads_register⟩

/-- The greatest short offset, a negative long offset, the frame's nearest word. -/
theorem witness_LoadsWithOffset :
    atData.Fits 2 ∧ atData.Fits 4 ∧
    shortAddress (atData.setP .p0 0xFF7FFFC8#32) .p0 15#4 .word = 0xFF800004#32 ∧
    shortAddress (atData.setP .p0 0xFF7FFFE2#32) .p0 15#4 .half = 0xFF800000#32 ∧
    frameAddress (atData.setP .fp 0xFF800008#32) 31#5 = 0xFF800004#32 ∧
    longAddress (atData.setP .p0 0xFF820004#32) .p0 0x8000#16 .word = 0xFF800004#32 ∧
    longAddress (atData.setP .p0 0xFF810000#32) .p0 0x8000#16 .half = 0xFF800000#32 ∧
    longAddress (atData.setP .p0 0xFF808007#32) .p0 0x8000#16 .byte = 0xFF800007#32 ∧
    atData.Loads 0xFF800004#32 4 0x37261504#32 ∧ atData.Loads 0xFF800000#32 2 0x9180#32 ∧
    atData.Loads 0xFF800007#32 1 0x37#32 :=
  ⟨by unfold State.Fits; decide, by unfold State.Fits; decide, by decide, by decide, by decide, by decide, by decide,
    by decide, loads_word, loads_half, loads_byte⟩

/-- StoresThroughPointers and StoresWithOffset. -/
theorem witness_Stores :
    start.Fits 2 ∧ start.Fits 4 ∧ start.mode ≠ .user ∧ (0xFFE02104#32).toNat = mmrAddress .imask ∧
    mmrAccepts .imask 0xFFFF#32 ∧ (start.setP .p0 0xFF807FFC#32).getP .p0 = 0xFF807FFC#32 ∧
    start.CanStore 0xFF807FFC#32 4 ∧ start.CanStore 0xFF807FFE#32 2 ∧ start.CanStore 0xFF807FFF#32 1 :=
  ⟨by unfold State.Fits; decide, by unfold State.Fits; decide, by decide, by decide, by unfold mmrAccepts; decide,
    by decide, can_store⟩

theorem witness_PointerModifiedAccess :
    atData.Fits 2 ∧ PReg.p1 ≠ PReg.p0 ∧ atData.getP .p0 = 0xFF800000#32 ∧ atData.Loads 0xFF800000#32 2 0x9180#32 ∧
    start.CanStore 0xFF807FFE#32 2 :=
  ⟨by unfold State.Fits; decide, by decide, by decide, loads_half, can_store.2.1⟩

/-- Linear; a step of the whole length; the last place that wraps; just outside on either side. -/
theorem witness_IndexModification :
    (indexed 8#32 0#32 0#32 0#32).IndexMoves .n0 (-12) 0xFFFFFFFC#32 ∧
    (indexed 0xFF800000#32 0xFF800000#32 8#32 8#32).IndexMoves .n0 8 0xFF800000#32 ∧
    (indexed 0xFF800007#32 0xFF800000#32 8#32 1#32).IndexMoves .n0 1 0xFF800000#32 ∧
    (indexed 0xFF800000#32 0xFF800000#32 8#32 1#32).IndexMoves .n0 (-8) 0xFF800000#32 ∧
    (indexed 0xFF800000#32 0xFF800000#32 8#32 9#32).IndexCorner .n0 9 ∧
    (indexed 0xFF800008#32 0xFF800000#32 8#32 1#32).IndexCorner .n0 1 := by
  unfold State.IndexMoves State.IndexCorner State.InBuffer; decide

/-- IndexLoads and IndexStores: a good access whose index lies outside its buffer. -/
theorem witness_Index_corner :
    { indexed 0xFF800004#32 0xFF800000#32 4#32 0#32 with mem := data.mem }.Loads 0xFF800004#32 4 0x37261504#32 ∧
    (indexed 0xFF800004#32 0xFF800000#32 4#32 0#32).TakesWord 0xFF800004#32 0#32 ∧
    (indexed 0xFF800004#32 0xFF800000#32 4#32 0#32).IndexCorner .n0 4 := by
  refine ⟨.inl ?_, .inl ?_, ?_⟩
  · unfold State.LoadsRam State.Holds Platform.DataReadable Platform.DataRam; decide
  · unfold State.CanStore Platform.DataRam; decide
  · unfold State.IndexCorner State.InBuffer; decide

/-- IndexLoads: the address is the index. -/
theorem witness_IndexLoads :
    { data with i := ⟨0xFF800004#32, 0#32, 0#32, 0#32⟩ }.Fits 2 ∧
    { data with i := ⟨0xFF800004#32, 0#32, 0#32, 0#32⟩ }.Loads 0xFF800004#32 4 0x37261504#32 ∧
    { data with i := ⟨0xFF800004#32, 0#32, 0#32, 0#32⟩ }.IndexMoves .n0 4 0xFF800008#32 := by
  refine ⟨?_, .inl ?_, .inl ?_⟩
  · unfold State.Fits; decide
  · unfold State.LoadsRam State.Holds Platform.DataReadable Platform.DataRam; decide
  · decide

theorem witness_IndexStores :
    (indexed 0xFF807FFC#32 0#32 0#32 0#32).Fits 2 ∧ (indexed 0xFF807FFC#32 0#32 0#32 0#32).CanStore 0xFF807FFC#32 4 ∧
    (indexed 0xFF807FFC#32 0#32 0#32 0#32).IndexMoves .n0 (-4) 0xFF807FF8#32 := by
  refine ⟨?_, ?_, .inl ?_⟩
  · unfold State.Fits; decide
  · unfold State.CanStore Platform.DataRam; decide
  · decide

/-- A pop of RETI: the stack pointer is the supervisor's. -/
theorem witness_PopOfRegister :
    (data.setSp 0xFF800004#32).Fits 2 ∧ Reg.poppable .reti = true ∧ Reg.reti ≠ .emudat ∧
    (data.setSp 0xFF800004#32).mayName .reti = true ∧
    (data.setSp 0xFF800004#32).Loads (data.setSp 0xFF800004#32).sp 4 0x37261504#32 ∧
    (data.setSp 0xFF800004#32).Accepts .reti 0x37261504#32 := by
  refine ⟨?_, by decide, by decide, by decide, .inl ?_, trivial⟩
  · unfold State.Fits; decide
  · unfold State.LoadsRam State.Holds Platform.DataReadable Platform.DataRam; decide

theorem witness_PushOfRegister :
    (start.setSp 0xFF808000#32).Fits 2 ∧ Reg.pushable .reti = true ∧ Reg.reti ≠ .emudat ∧
    (start.setSp 0xFF808000#32).mayName .reti = true ∧
    (start.setSp 0xFF808000#32).CanStore ((start.setSp 0xFF808000#32).sp - 4#32) 4 ∧
    Reg.pushable (.gen (.p .sp)) = false ∧ Reg.poppable (.gen (.d .r0)) = false := by
  unfold State.Fits State.CanStore Platform.DataRam; decide

/-- The longest list, 14 registers, from the top of a bank. -/
theorem witness_PushMultiple :
    (start.setSp 0xFF808000#32).Fits 2 ∧ PReg.numbered .p0 = true ∧
    ((dregsFrom .r0).map DPReg.d ++ (pregsFrom .p0).map DPReg.p).length = 14 ∧
    ∀ j, j < 14 →
      (start.setSp 0xFF808000#32).CanStore ((start.setSp 0xFF808000#32).sp - BitVec.ofNat 32 (4 * (j + 1))) 4 := by
  refine ⟨?_, by decide, by decide, ?_⟩
  · unfold State.Fits; decide
  · have aligned : ∀ j, j < 14 → ((start.setSp 0xFF808000#32).sp - BitVec.ofNat 32 (4 * (j + 1))).toNat % 4 = 0 := by
      decide
    have bank : ∀ j, j < 14 → ∀ k, k < 4 →
        0xFF800000 ≤ ((start.setSp 0xFF808000#32).sp - BitVec.ofNat 32 (4 * (j + 1))).toNat + k ∧
          ((start.setSp 0xFF808000#32).sp - BitVec.ofNat 32 (4 * (j + 1))).toNat + k < 0xFF808000 := by
      decide
    exact fun j h => ⟨aligned j h, fun k hk => ⟨.inr (.inr (.inr (.inr (.inr (.inl (bank j h k hk)))))),
      List.not_mem_nil⟩⟩

/-- Two registers from two words: the last one lies lowest. -/
theorem witness_PopMultiple :
    (data.setSp 0xFF800000#32).Fits 2 ∧ PReg.numbered .p5 = true ∧
    ((dregsFrom .r7).map DPReg.d ++ (pregsFrom .p5).map DPReg.p).length = [0x37261504#32, 0xB3A29180#32].length ∧
    (∀ j, (h : j < 2) → (data.setSp 0xFF800000#32).Loads
      ((data.setSp 0xFF800000#32).sp + BitVec.ofNat 32 (4 * (2 - 1 - j))) 4 [0x37261504#32, 0xB3A29180#32][j]) := by
  refine ⟨?_, by decide, by decide, fun j h => .inl ?_⟩
  · unfold State.Fits; decide
  · match j, h with
    | 0, _ =>
      show State.LoadsRam _ _ 4 0x37261504#32
      unfold State.LoadsRam State.Holds Platform.DataReadable Platform.DataRam; decide
    | 1, _ =>
      show State.LoadsRam _ _ 4 0xB3A29180#32
      unfold State.LoadsRam State.Holds Platform.DataReadable Platform.DataRam; decide

theorem witness_Frames :
    ((start.setSp 0xFF808000#32).Fits 4 ∧ (start.setSp 0xFF808000#32).CanStore ((start.setSp 0xFF808000#32).sp - 4#32) 4 ∧
      (start.setSp 0xFF808000#32).CanStore ((start.setSp 0xFF808000#32).sp - 8#32) 4) ∧
    (data.setP .fp 0xFF800000#32).Loads 0xFF800000#32 4 0xB3A29180#32 ∧
    (data.setP .fp 0xFF800000#32).Loads 0xFF800004#32 4 0x37261504#32 := by
  refine ⟨⟨?_, ?_, ?_⟩, .inl ?_, .inl ?_⟩
  · unfold State.Fits; decide
  · unfold State.CanStore Platform.DataRam; decide
  · unfold State.CanStore Platform.DataRam; decide
  · unfold State.LoadsRam State.Holds Platform.DataReadable Platform.DataRam; decide
  · unfold State.LoadsRam State.Holds Platform.DataReadable Platform.DataRam; decide

/-- TestSet: a bank that is not there, a byte without value, a byte of code. -/
theorem witness_TestSet_stops :
    ¬ (Platform.mk 0x1000 true false true true).External 0x1000 ∧
    ¬ (Platform.mk 0x1000 true false true true).External 0x20100000 ∧
    start.platform.External 0x203FFFFF ∧ start.byteAt 0x203FFFFF = none ∧
    (code [(0x1000, 0#8)]).platform.External 0x1000 ∧ (code [(0x1000, 0#8)]).byteAt 0x1000 ≠ none ∧
    0x1000 ∈ { code [(0x1000, 0#8)] with fetched := [0x1000] }.fetched := by
  refine ⟨?_, ?_, ?_, by decide, ?_, by decide, by decide⟩ <;>
    (unfold Platform.External Platform.DataRam; decide)

/-- The last byte of SDRAM with the value 0, and the regions just outside. -/
theorem witness_TestSet :
    (code [(0x07FFFFFF, 0#8)]).Fits 2 ∧ start.platform.External 0x07FFFFFF ∧
    (code [(0x07FFFFFF, 0#8)]).Loads 0x07FFFFFF#32 1 0#32 ∧ (code [(0x07FFFFFF, 0#8)]).CanStore 0x07FFFFFF#32 1 ∧
    0x08000000 ≤ (0x08000000#32).toNat ∧ 0x20400000 ≤ (0x20400000#32).toNat := by
  refine ⟨?_, ?_, .inl ?_, ?_, by decide, by decide⟩
  · unfold State.Fits; decide
  · unfold Platform.External Platform.DataRam; decide
  · unfold State.LoadsRam State.Holds Platform.DataReadable Platform.DataRam; decide
  · unfold State.CanStore Platform.DataRam; decide

theorem witness_MisalignedAccessTraps :
    dataAccess (data.setP .p0 0xFF800002#32) (.ldDInd .r0 .p0) = some (0xFF800002#32, 4) ∧
    dataAccess (data.setP .p0 0xFFBFFFFF#32) (.stHalfInd .r0 .p0) = some (0xFFBFFFFF#32, 2) ∧
    dataAccess (data.setSp 0xFFB00002#32) .unlink = some (0#32, 4) ∧
    dataAccess (data.setSp 0xFFB00006#32) (.pushReg .rets) = some (0xFFB00002#32, 4) ∧ data.CanTrap ∧
    ¬ { data with ipend := 0x8008#32 }.CanTrap := by
  unfold State.CanTrap; decide

theorem witness_MmrAccessStops :
    dataAccess (start.setP .p0 0xFFC00000#32) (.ldDInd .r0 .p0) = some (0xFFC00000#32, 4) ∧ user.mode = .user ∧
    start.mode ≠ .user ∧ (0xFFE02106#32).toNat ≠ mmrAddress .imask ∧ mmrAddress .imask ≤ 0xFFE02106 ∧
    (0xFFE02108#32).toNat = mmrAddress .ipend ∧ ¬ mmrAccepts .imask 0x10000#32 ∧ ¬ mmrAccepts .tcntl 0x10#32 ∧
    dataAccess (start.setP .p0 0xFFE02104#32) (.stDInd .r0 .p0) = some (0xFFE02104#32, 4) ∧
    firstStored (start.setD .r0 0x10000#32) (.stDInd .r0 .p0) = some 0x10000#32 ∧
    firstStored start (.ldDInd .r0 .p0) = none ∧
    (0xFFE0300C#32).toNat = mmrAddress .tcount ∧ busy.timer.runs = true := by
  unfold mmrAccepts; decide

/-- A load of the running timer's count, and the same load with the timer stopped at a free value. -/
theorem witness_MmrAccessStops_count :
    dataAccess (busy.setP .p0 0xFFE0300C#32) (.ldDInd .r0 .p0) = some (0xFFE0300C#32, 4) ∧
    (see (exec (.ldDInd .r0 .p0) ({ busy with timer := { busy.timer with tcntl := 0#32 } }.setP .p0 0xFFE0300C#32))
      (fun t => t.getD .r0)) = some 1#32 := by decide

/-- A store to TSCALE is held whole and takes no free value (60 R461). -/
theorem test_store_tscale :
    see (exec (.stDInd .r0 .p0) ((start.setD .r0 0x800001FF#32).setP .p0 0xFFE03008#32))
      (fun t => (t.timer.tscale, t.draws)) = some (0x800001FF#32, 0) := by decide

/-- A store to IPRIO of a value above its 4 bits is done, and takes a free value; one within them takes none. -/
theorem test_store_iprio :
    see (exec (.stDInd .r0 .p0) ((start.setD .r0 0x1F#32).setP .p0 0xFFE02110#32)) State.draws = some 1 ∧
    see (exec (.stDInd .r0 .p0) ((start.setD .r0 0xF#32).setP .p0 0xFFE02110#32)) (fun t => (t.iprio, t.draws)) =
      some (0xF#32, 0) := by decide

/-- A store to ILAT clears the bits 5 to 15 that IMASK does not enable (10 R74), and no other. -/
theorem test_store_ilat :
    see (exec (.stDInd .r0 .p0) (({ start with ilat := 0x80A4#32, imask := 0x9F#32 }.setD .r0 0xFFFFFFFF#32).setP .p0
      0xFFE0210C#32)) State.ilat = some 0x84#32 := by decide

theorem witness_MmrAccessStops_nowhere (m : CoreMmr) :
    0xFFC00000 < mmrAddress m ∨ mmrAddress m + 4 ≤ 0xFFC00000 := by
  have := mmrAddress_range m
  cases m with
  | evt k => left; show 0xFFC00000 < 0xFFE02000 + 4 * k.val; omega
  | _ => left; decide

/-- UnreachableAccess: an access of each width, loads and stores, on the stack too. -/
theorem witness_UnreachableAccess_forms :
    dataAccess (start.setP .p0 0xFFA13FFC#32) (.ldPInc .p1 .p0) = some (0xFFA13FFC#32, 4) ∧
    dataAccess (start.setP .p0 0xEF0003FE#32) (.stHalfInd .r0 .p0) = some (0xEF0003FE#32, 2) ∧
    dataAccess (start.setP .p0 0x1003#32) (.stByteInd .r0 .p0) = some (0x1003#32, 1) ∧
    dataAccess (start.setSp 0xFF808000#32) (.popMultD .r7) = some (0xFF808000#32, 4) ∧
    dataAccess (start.setSp 0#32) (.link 0#16) = some (0xFFFFFFFC#32, 4) ∧
    (firstStored start (.stHalfInd .r0 .p0)).isSome = true ∧ (firstStored start (.link 0#16)).isSome = true ∧
    firstStored start (.popMultD .r7) = none := by decide

/-- The last word of L1 instruction memory, the first word above it, the boot ROM, a byte without value, code. -/
theorem witness_UnreachableAccess :
    0xFFA13FFC % 4 = 0 ∧ 0xFFA00000 ≤ 0xFFA13FFC ∧ ¬ start.platform.DataReadable 0xFFA14000 ∧ 0xEF0003FC < 0xEF000400 ∧
    (∀ k, k < 4 → start.platform.DataReadable (0xFF807FFC + k)) ∧ (∃ k, k < 4 ∧ start.byteAt (0xFF807FFC + k) = none) ∧
    (∀ k, k < 4 → start.platform.DataRam (0xFF807FFC + k)) ∧
    (∃ k, k < 4 ∧ (0x1000 + k) ∈ { start with fetched := [0x1003] }.fetched) := by
  refine ⟨by decide, by decide, ?_, by decide, ?_, by decide, ?_, by decide⟩ <;>
    (try unfold Platform.DataReadable) <;> (unfold Platform.DataRam; decide)

/-- A good state with code at its pc, from which a step is taken. -/
theorem witness_StepKeepsGoodStates :
    (code [(0xFFA00100, 0#8), (0xFFA00101, 0#8)]).Inv ∧
    see (step (code [(0xFFA00100, 0#8), (0xFFA00101, 0#8)])) State.pc = some 0xFFA00102#32 := by
  refine ⟨?_, by decide⟩
  constructor <;> decide

/-- CodeIsImmutable: a store beside a byte of code. -/
theorem witness_CodeIsImmutable :
    see (exec (.stByteInd .r0 .p0) ({ start with fetched := [0x1000] }.setP .p0 0x1001#32)) State.fetched =
      some [0x1000] := by decide

/-- UserIsolation and ModeTransitions: an instruction that completes in User mode, one that traps, and a return. -/
theorem witness_UserIsolation :
    user.mode = .user ∧ see (exec (.pushReg .rets) (user.setSp 0xFF808000#32)) State.mode = some .user ∧
    see (exec .rti user) State.mode = some .supervisor ∧
    see (exec (.ldDInd .r0 .p0) (user.setP .p0 0xFF800002#32)) State.mode = some .supervisor ∧
    see (exec .rti { start with ipend := 0x8000#32 }) State.mode = some .user ∧
    see (exec .rte { start with ipend := 1#32 }) State.mode = some .user := by decide

/-- The outcomes of the agents' turns (00 R21, R22): DMA never moves, the core waits in the Idle state, the pin moves. -/
theorem test_agents :
    Agent.peripheralDma.move start = .stuck ∧ Agent.memoryDma.move start = .stuck ∧
    Agent.externalWorld.move start = .stuck ∧ Agent.core.move { start with idle := true } = .stuck ∧
    Agent.externalWorld.move busy = .next { busy with ilat := 4#32 } ∧ Agent.core.move start = .fault .readOfUnwritten := by
  decide

end Sys2Proof.Tests
end

section
/-! PROOF. The computational units (41): what the shared results of the instructions do, and the statements about the
arithmetic, the logic, the shifts, the compares, CC, the pointers, the conditional moves and the immediates. -/

namespace Sys2Proof.Machine

/-! ### Word operations as the rules write them

The rules give a result as an integer or a natural number modulo 2^32; the model computes on words. -/

theorem ofNat_toNat_add (x y : Word) : BitVec.ofNat 32 (x.toNat + y.toNat) = x + y := by
  rw [BitVec.ofNat_add, BitVec.ofNat_toNat, BitVec.ofNat_toNat, BitVec.setWidth_eq, BitVec.setWidth_eq]

theorem ofInt_toInt_add (x y : Word) : BitVec.ofInt 32 (x.toInt + y.toInt) = x + y := by
  rw [BitVec.ofInt_add, BitVec.ofInt_toInt, BitVec.ofInt_toInt]

theorem ofInt_toInt_mul (x y : Word) : BitVec.ofInt 32 (x.toInt * y.toInt) = x * y := by
  rw [BitVec.ofInt_mul, BitVec.ofInt_toInt, BitVec.ofInt_toInt]

theorem ofInt_toInt_sub (x y : Word) : BitVec.ofInt 32 (x.toInt - y.toInt) = x - y := by
  rw [Int.sub_eq_add_neg, BitVec.ofInt_add, BitVec.ofInt_neg, BitVec.ofInt_toInt, BitVec.ofInt_toInt,
    BitVec.sub_eq_add_neg]

theorem ofInt_toNat (x : Word) : BitVec.ofInt 32 x.toNat = x := by
  rw [BitVec.ofInt_natCast, BitVec.ofNat_toNat, BitVec.setWidth_eq]

theorem ofInt_toNat_sub (x y : Word) : BitVec.ofInt 32 (x.toNat - y.toNat) = x - y := by
  rw [Int.sub_eq_add_neg, BitVec.ofInt_add, BitVec.ofInt_neg, ofInt_toNat, ofInt_toNat, BitVec.sub_eq_add_neg]

theorem ofInt_neg_toInt (x : Word) : BitVec.ofInt 32 (-x.toInt) = 0#32 - x := by
  rw [BitVec.ofInt_neg, BitVec.ofInt_toInt, BitVec.zero_sub]

/-- A sign-extended immediate is the word of its signed value (30 R207). -/
theorem sext_eq_ofInt {n : Nat} (v : BitVec n) : sext v = BitVec.ofInt 32 v.toInt := rfl

/-- A zero-extended immediate is the word of its unsigned value (30 R207). -/
theorem zext_eq_ofNat {n : Nat} (v : BitVec n) : zext v = BitVec.ofNat 32 v.toNat := (BitVec.ofNat_toNat 32 v).symm

/-- An immediate of at most 32 bits keeps its signed value when it is extended. -/
theorem toInt_sext {n : Nat} (hn : n ≤ 32) (v : BitVec n) : (sext v).toInt = v.toInt :=
  BitVec.toInt_signExtend_of_le hn

theorem ofInt_toInt_add_sext {n : Nat} (hn : n ≤ 32) (x : Word) (v : BitVec n) :
    BitVec.ofInt 32 (x.toInt + v.toInt) = x + sext v := by
  rw [← toInt_sext hn v, ofInt_toInt_add]

theorem sext_extractLow (w : Word) (k : Nat) (hk : k ≤ 32) :
    sext (w.extractLsb' 0 k) = BitVec.ofInt 32 (w.setWidth k).toInt := by
  rw [sext_eq_ofInt, BitVec.setWidth_eq_extractLsb' hk]

theorem zext_extractLow (w : Word) (k : Nat) :
    zext (w.extractLsb' 0 k) = BitVec.ofNat 32 (w.toNat % 2 ^ k) := by
  rw [zext_eq_ofNat, BitVec.extractLsb'_toNat, Nat.shiftRight_zero]

/-- A shift left of a word multiplies modulo 2^32, by any amount. -/
theorem shiftLeft_eq_ofNat (x : Word) (n : Nat) : x <<< n = BitVec.ofNat 32 (x.toNat * 2 ^ n) := by
  apply BitVec.eq_of_toNat_eq
  rw [BitVec.toNat_shiftLeft, Nat.shiftLeft_eq, BitVec.toNat_ofNat]

theorem shiftLeft_eq_ofNat_mul (x : Word) (n : Nat) : x <<< n = BitVec.ofNat 32 (2 ^ n * x.toNat) := by
  rw [shiftLeft_eq_ofNat, Nat.mul_comm]

/-- A scaled second operand (41 R236, R237). -/
theorem add_shiftLeft_eq_ofNat (x y : Word) (n : Nat) :
    x + y <<< n = BitVec.ofNat 32 (x.toNat + 2 ^ n * y.toNat) := by
  rw [BitVec.ofNat_add, ← shiftLeft_eq_ofNat_mul, BitVec.ofNat_toNat, BitVec.setWidth_eq]

/-- A scaled sum (41 R269, R270). -/
theorem sum_shiftLeft_eq_ofNat (x y : Word) (n : Nat) :
    (x + y) <<< n = BitVec.ofNat 32 (2 ^ n * (x.toNat + y.toNat)) := by
  rw [BitVec.ofNat_mul, ofNat_toNat_add, shiftLeft_eq_ofNat_mul, BitVec.ofNat_mul, BitVec.ofNat_toNat,
    BitVec.setWidth_eq]

/-- A logical shift right of a word divides, by any amount. -/
theorem ushiftRight_eq_ofNat (x : Word) (n : Nat) : x >>> n = BitVec.ofNat 32 (x.toNat / 2 ^ n) := by
  rw [← Nat.shiftRight_eq_div_pow, ← BitVec.toNat_ushiftRight, BitVec.ofNat_toNat, BitVec.setWidth_eq]

/-- The mask of bit `n` (41 R257 to R259). -/
theorem one_shiftLeft (n : Nat) : 1#32 <<< n = BitVec.ofNat 32 (2 ^ n) := by
  rw [shiftLeft_eq_ofNat, BitVec.toNat_ofNat, Nat.one_mod, Nat.one_mul]

/-! ### Shifts by any amount (41 R242 to R244) -/

/-- Division of a word by 2^31 or more leaves only the sign, so the model may cut the amount at 31. -/
theorem toInt_div_two_pow_min (x : Word) (n : Nat) : x.toInt / 2 ^ min n 31 = x.toInt / 2 ^ n := by
  rcases Nat.le_total n 31 with hn | hn
  · rw [Nat.min_eq_left hn]
  · have hlo : -2 ^ 31 ≤ x.toInt := BitVec.le_toInt x
    have hhi : x.toInt < 2 ^ 31 := BitVec.toInt_lt
    have hpow : (2 : Int) ^ 31 ≤ 2 ^ n := pow_le_pow_right₀ (by decide) hn
    rw [Nat.min_eq_right hn]
    rcases Int.lt_or_le x.toInt 0 with hneg | hpos
    · rw [Int.ediv_eq_neg_one_of_neg_of_le hneg (by omega), Int.ediv_eq_neg_one_of_neg_of_le hneg (by omega)]
    · rw [Int.ediv_eq_zero_of_lt hpos hhi, Int.ediv_eq_zero_of_lt hpos (by omega)]

theorem asr_eq_ofInt (x : Word) (n : Nat) : asr x n = BitVec.ofInt 32 (x.toInt / 2 ^ n) := by
  have hdiv : (asr x n).toInt = x.toInt / 2 ^ n := by
    rw [asr, BitVec.toInt_sshiftRight, Int.shiftRight_eq_div_pow, ← toInt_div_two_pow_min x n]
    norm_cast
  rw [← hdiv, BitVec.ofInt_toInt]

theorem lsr_eq_ofNat (x : Word) (n : Nat) : lsr x n = BitVec.ofNat 32 (x.toNat / 2 ^ n) := by
  rw [← ushiftRight_eq_ofNat, lsr]
  split
  · rfl
  · rw [BitVec.ushiftRight_eq_zero (by omega)]

theorem lsl_eq_ofNat (x : Word) (n : Nat) : lsl x n = BitVec.ofNat 32 (x.toNat * 2 ^ n) := by
  rw [← shiftLeft_eq_ofNat, lsl]
  split
  · rfl
  · rw [BitVec.shiftLeft_eq_zero (by omega)]

/-! ### Halves and bits -/

theorem withLow_eq_ofNat (w : Word) (h : BitVec 16) :
    withLow w h = BitVec.ofNat 32 (w.toNat / 2 ^ 16 * 2 ^ 16 + h.toNat) := by
  apply BitVec.eq_of_toNat_eq
  rw [withLow, BitVec.toNat_append, ← Nat.shiftLeft_add_eq_or_of_lt h.isLt, BitVec.extractLsb'_toNat,
    Nat.shiftLeft_eq, Nat.shiftRight_eq_div_pow, BitVec.toNat_ofNat]
  omega

theorem withHigh_eq_ofNat (w : Word) (h : BitVec 16) :
    withHigh w h = BitVec.ofNat 32 (h.toNat * 2 ^ 16 + w.toNat % 2 ^ 16) := by
  apply BitVec.eq_of_toNat_eq
  rw [withHigh, BitVec.toNat_append, ← Nat.shiftLeft_add_eq_or_of_lt (BitVec.isLt _), BitVec.extractLsb'_toNat,
    Nat.shiftLeft_eq, Nat.shiftRight_zero, BitVec.toNat_ofNat]
  omega

theorem bit_eq_decide (w : Word) (k : Nat) : bit w k = decide (w.toNat / 2 ^ k % 2 = 1) :=
  Nat.testBit_eq_decide_div_mod_eq

theorem not_bit_eq_decide (w : Word) (k : Nat) : (!bit w k) = decide (w.toNat / 2 ^ k % 2 = 0) := by
  rw [bit_eq_decide, ← decide_not, decide_eq_decide]
  omega

/-! ### Overflow (00 R19) -/

theorem overflows_eq_or (z : Int) : overflows z = (decide (2 ^ 31 ≤ z) || decide (z < -2 ^ 31)) := by
  rw [overflows, Bool.decide_or, Bool.or_comm]

theorem ovfAdd32_eq_overflows (x y : Word) : ovfAdd32 x y (x + y) = overflows (x.toInt + y.toInt) :=
  calc ovfAdd32 x y (x + y) = x.saddOverflow y := (BitVec.saddOverflow_eq x y).symm
    _ = overflows (x.toInt + y.toInt) := (overflows_eq_or _).symm

theorem ovfSub32_eq_overflows (x y : Word) : ovfSub32 x y (x - y) = overflows (x.toInt - y.toInt) :=
  calc ovfSub32 x y (x - y) = x.ssubOverflow y := by
        rw [BitVec.ssubOverflow_eq, ovfSub32]
        cases x.msb <;> cases y.msb <;> cases (x - y).msb <;> rfl
    _ = overflows (x.toInt - y.toInt) := (overflows_eq_or _).symm

/-- `flags_sub`: AC0 says that there is no borrow (41 R225). -/
theorem Astat.flagsSub_eq (a : Astat) (x y : Word) :
    a.flagsSub x y (x - y) =
      ((a.flagsNz (x - y)).putAc0 (decide (y.toNat ≤ x.toNat))).putV (overflows (x.toInt - y.toInt)) := by
  rw [Astat.flagsSub, ovfSub32_eq_overflows, BitVec.ule_eq_decide]

/-- The flags of a negation: AC0 says that the operand is 0, V that it is the least word (41 R250). -/
theorem Astat.flagsNeg_eq (a : Astat) (x v : Word) :
    a.flagsNeg x v = ((a.flagsNz v).putAc0 (decide (x = 0#32))).putV (decide (x = 0x80000000#32)) := rfl

/-! ### The shared results

Each instruction of 41 ends in one of these, and `exec` on it unfolds to that; `w` is the value as the rule
writes it. -/

section

variable {s : State}

/-- A data register and all the flags of a result (41 R225): `f` holds the flags that the model computes. -/
theorem completes_aluResult (h : s.Fits 2) (rd : DReg) {v w : Word} {f : Astat} {ac0 ovf : Bool} (e : v = w)
    (hf : f = ((s.astat.flagsNz v).putAc0 ac0).putV ovf) :
    Completes (aluResult s rd v f) s (s.withResult rd w ac0 ovf) 2 := by
  subst e hf
  have hu : s.withResult rd v ac0 ovf =
      { s.setD rd v with astat := ((s.astat.flagsNz v).putAc0 ac0).putV ovf } := by
    rw [State.withResult, ← BitVec.msb_eq_toInt]; rfl
  rw [hu]
  exact completes_retire s _ 2 h rfl rfl

/-- `flags_logical`: AC0 and V are cleared (41 R225). -/
theorem completes_logicalResult (h : s.Fits 2) (rd : DReg) {v w : Word} (e : v = w) :
    Completes (logicalResult s rd v) s (s.withResult rd w false false) 2 :=
  completes_aluResult h rd e rfl

/-- `flags_add`: AC0 is the carry and V the signed overflow (41 R225). -/
theorem completes_addResult (h : s.Fits 2) (rd : DReg) {x y w : Word} {z : Int} (e : x + y = w)
    (hz : x.toInt + y.toInt = z) :
    Completes (addResult s rd x y) s
      (s.withResult rd w (decide (2 ^ 32 ≤ x.toNat + y.toNat)) (overflows z)) 2 :=
  completes_aluResult h rd e (by rw [← hz, ← ovfAdd32_eq_overflows]; rfl)

/-- A shift: V is cleared, AC0 and VS keep (41 R242 to R244, R252 to R254). -/
theorem completes_shiftResult (h : s.Fits 2) (rd : DReg) {v w : Word} (e : v = w) :
    Completes (shiftResult s rd v) s (s.withShift rd w) 2 := by
  subst e
  have hu : s.withShift rd v = { s.setD rd v with astat := s.astat.flagsShift v } := by
    rw [State.withShift, ← BitVec.msb_eq_toInt, Astat.flagsShift, Astat.putV, Bool.or_false]; rfl
  rw [hu]
  exact completes_retire s _ 2 h rfl rfl

/-- A data register and no flag. -/
theorem completes_setD (h : s.Fits 2) (rd : DReg) {v w : Word} (e : v = w) :
    Completes (retire 2 (s.setD rd v)) s (s.setD rd w) 2 := by
  subst e
  exact completes_retire s _ 2 h rfl rfl

/-- A pointer register and no flag (41 R235). -/
theorem completes_pointerResult (h : s.Fits 2) (pd : PReg) {v w : Word} (e : v = w) :
    Completes (pointerResult s pd v) s (s.setP pd w) 2 := by
  subst e
  exact completes_retire s _ 2 h (s.setP_pc pd v) (s.setP_mem pd v)

/-- A register of groups 0 to 3 by an instruction of four bytes (41 R271 to R274). -/
theorem completes_setGen (h : s.Fits 4) (g : GenReg) {v w : Word} (e : v = w) :
    Completes (retire 4 (s.setGen g v)) s (s.setGen g w) 4 := by
  subst e
  exact completes_retire s _ 4 h (s.setGen_pc g v) (s.setGen_mem g v)

/-- Flags alone. -/
theorem completes_flagResult (h : s.Fits 2) {f g : Astat} (e : f = g) :
    Completes (flagResult s f) s { s with astat := g } 2 := by
  subst e
  exact completes_retire s _ 2 h rfl rfl

/-- CC alone. -/
theorem completes_putCc (h : s.Fits 2) {c d : Bool} (e : c = d) :
    Completes (flagResult s (s.astat.putCc c)) s (s.withCc d) 2 :=
  completes_flagResult h (congrArg s.astat.putCc e)

/-- A signed compare of data registers (41 R276 to R278). -/
theorem completes_compareD (h : s.Fits 2) {c : Word → Word → Bool} {x y : Word} {d : Bool} (e : c x y = d) :
    Completes (compareD s c x y) s
      (s.compared d (decide (x = y)) (decide (x.toInt < y.toInt)) (decide (y.toNat ≤ x.toNat))) 2 :=
  completes_flagResult h (by rw [e, Astat.flagsCompare, BitVec.slt_eq_decide, BitVec.ule_eq_decide]; rfl)

/-- An unsigned compare of data registers (41 R279, R280). -/
theorem completes_compareUD (h : s.Fits 2) {c : Word → Word → Bool} {x y : Word} {d : Bool} (e : c x y = d) :
    Completes (compareUD s c x y) s
      (s.compared d (decide (x = y)) (decide (x.toNat < y.toNat)) (decide (y.toNat ≤ x.toNat))) 2 :=
  completes_flagResult h (by rw [e, Astat.flagsCompareU, BitVec.ult_eq_decide, BitVec.ule_eq_decide]; rfl)

/-- A compare of pointer registers (41 R281). -/
theorem completes_compareP (h : s.Fits 2) {c : Word → Word → Bool} {x y : Word} {d : Bool} (e : c x y = d) :
    Completes (compareP s c x y) s (s.withCc d) 2 :=
  completes_putCc h e

/-- A compare of the accumulators: signed on 40 bits, AC0 unsigned (41 R282). -/
theorem completes_compareAcc (h : s.Fits 2) {c : Acc → Acc → Bool} {d : Bool} (e : c s.a0 s.a1 = d) :
    Completes (compareAcc s c) s
      (s.compared d (decide (s.a0 = s.a1)) (decide (s.a0.toInt < s.a1.toInt)) (decide (s.a1.toNat ≤ s.a0.toNat))) 2 :=
  completes_flagResult h (by rw [e, Astat.flagsCompareAcc, BitVec.slt_eq_decide, BitVec.ule_eq_decide]; rfl)

/-- A data or pointer register and no flag; `e` says that this is what a conditional move does (41 R264). -/
theorem completes_setDP (h : s.Fits 2) {u : State} {dst : DPReg} {v : Word} (e : u = s.setDP dst v) :
    Completes (retire 2 u) s (s.setDP dst v) 2 := by
  subst e
  exact completes_retire s _ 2 h (s.setDP_pc dst v) (s.setDP_mem dst v)

/-- Nothing but the next address; `e` says that this is what a conditional move does (41 R264). -/
theorem completes_unchanged (h : s.Fits 2) {u : State} (e : u = s) : Completes (retire 2 u) s s 2 := by
  subst e
  exact completes_retire u u 2 h rfl rfl

end

/-! ### The statements -/

/-- Settles O13: each sum ends in `addResult`; the difference and the negation by their own flags. -/
theorem sumsAndDifferences : Obligations.SumsAndDifferences := by
  intro rd rs0 rs1 imm s h
  exact ⟨completes_addResult h rd (ofNat_toNat_add _ _).symm rfl,
    completes_aluResult h rd (ofInt_toInt_sub _ _).symm (s.astat.flagsSub_eq _ _),
    completes_addResult h rd (ofInt_toInt_add_sext (by decide) _ imm).symm
      (by rw [toInt_sext (by decide)]),
    completes_aluResult h rd (ofInt_neg_toInt _).symm (s.astat.flagsNeg_eq _ _)⟩

/-- Settles O14: all eleven end in `logicalResult`; what is left is the value of each. -/
theorem logicalResults : Obligations.LogicalResults := by
  intro rd rs0 rs1 n s h
  refine ⟨completes_logicalResult h rd rfl, completes_logicalResult h rd rfl, completes_logicalResult h rd rfl,
    completes_logicalResult h rd rfl, ?sextHalf, ?zextHalf, ?sextByte, ?zextByte, ?bitset, ?bitclr, ?bittgl⟩
  case sextHalf => exact completes_logicalResult h rd (sext_extractLow _ 16 (by decide))
  case zextHalf => exact completes_logicalResult h rd (zext_extractLow _ 16)
  case sextByte => exact completes_logicalResult h rd (sext_extractLow _ 8 (by decide))
  case zextByte => exact completes_logicalResult h rd (zext_extractLow _ 8)
  case bitset => exact completes_logicalResult h rd (by rw [setBit, one_shiftLeft])
  case bitclr => exact completes_logicalResult h rd (by rw [clearBit, one_shiftLeft])
  case bittgl => exact completes_logicalResult h rd (by rw [one_shiftLeft])

/-- Settles O15: register and immediate forms take the same three shifts, at any amount. -/
theorem shifts : Obligations.Shifts := by
  intro rd rs n s h
  exact ⟨completes_shiftResult h rd (asr_eq_ofInt _ _), completes_shiftResult h rd (lsr_eq_ofNat _ _),
    completes_shiftResult h rd (lsl_eq_ofNat _ _), completes_shiftResult h rd (asr_eq_ofInt _ _),
    completes_shiftResult h rd (lsr_eq_ofNat _ _), completes_shiftResult h rd (lsl_eq_ofNat _ _)⟩

/-- Settles O16: three writes of a data register, each with the value of its rule. -/
theorem resultsWithoutFlags : Obligations.ResultsWithoutFlags := by
  intro rd rs imm s h
  exact ⟨completes_setD h rd (ofInt_toInt_mul _ _).symm, completes_setD h rd (sext_eq_ofInt imm),
    completes_setD h rd rfl⟩

/-- Settles O17: the forms over CC and a bit of ASTAT write what the rule writes, `^` being `!=` on bits. -/
theorem writesOfCc : Obligations.WritesOfCc := by
  intro rd n k s h
  refine ⟨completes_putCc h (bit_eq_decide _ _), completes_putCc h (not_bit_eq_decide _ _), ?dToCc,
    completes_putCc h rfl, completes_putCc h rfl, completes_putCc h rfl, completes_putCc h rfl, ?ccXorBit,
    completes_flagResult h rfl, completes_flagResult h rfl, completes_flagResult h rfl, ?bitXorCc⟩
  case dToCc => exact completes_putCc h decide_not.symm
  case ccXorBit => exact completes_putCc h (Bool.bne_eq_xor ▸ rfl)
  case bitXorCc => exact completes_flagResult h (Bool.bne_eq_xor ▸ rfl)

/-- Settles O18: each compare is a signed or an unsigned one with its own condition and second operand. -/
theorem comparesOfDataRegisters : Obligations.ComparesOfDataRegisters := by
  intro rx ry imm s h x y i u
  have hu : zext imm = u := zext_eq_ofNat imm
  refine ⟨completes_compareD h rfl, completes_compareD h rfl, completes_compareD h BitVec.slt_eq_decide,
    completes_compareD h BitVec.slt_eq_decide, completes_compareD h BitVec.sle_eq_decide,
    completes_compareD h BitVec.sle_eq_decide, completes_compareUD h BitVec.ult_eq_decide, ?ltImm,
    completes_compareUD h BitVec.ule_eq_decide, ?leImm⟩
  case ltImm => exact hu ▸ completes_compareUD h BitVec.ult_eq_decide
  case leImm => exact hu ▸ completes_compareUD h BitVec.ule_eq_decide

/-- Settles O19: the ten pointer compares write CC alone, the three of the accumulators four flags. -/
theorem comparesOfPointersAndAccumulators : Obligations.ComparesOfPointersAndAccumulators := by
  intro px py imm s h x y i u
  have hu : zext imm = u := zext_eq_ofNat imm
  refine ⟨completes_compareP h rfl, completes_compareP h rfl, completes_compareP h BitVec.slt_eq_decide,
    completes_compareP h BitVec.slt_eq_decide, completes_compareP h BitVec.sle_eq_decide,
    completes_compareP h BitVec.sle_eq_decide, completes_compareP h BitVec.ult_eq_decide, ?ltImm,
    completes_compareP h BitVec.ule_eq_decide, ?leImm, completes_compareAcc h rfl,
    completes_compareAcc h BitVec.slt_eq_decide, completes_compareAcc h BitVec.sle_eq_decide⟩
  case ltImm => exact hu ▸ completes_compareP h BitVec.ult_eq_decide
  case leImm => exact hu ▸ completes_compareP h BitVec.ule_eq_decide

/-- Settles O20: all eleven end in `pointerResult`; a scaled operand is a product modulo 2^32. -/
theorem pointerArithmetic : Obligations.PointerArithmetic := by
  intro pd p q imm s h
  refine ⟨?addP, ?addPShl1, ?addPShl2, ?movImmP, ?addImmP, ?subP, ?shl2P, ?shr2P, ?shr1P, ?sumShl1P, ?sumShl2P⟩
  case addP => exact completes_pointerResult h pd (ofNat_toNat_add _ _).symm
  case addPShl1 => exact completes_pointerResult h pd (add_shiftLeft_eq_ofNat _ _ 1)
  case addPShl2 => exact completes_pointerResult h pd (add_shiftLeft_eq_ofNat _ _ 2)
  case movImmP => exact completes_pointerResult h pd (sext_eq_ofInt imm)
  case addImmP => exact completes_pointerResult h pd (ofInt_toInt_add_sext (by decide) _ imm).symm
  case subP => exact completes_pointerResult h pd (ofInt_toNat_sub _ _).symm
  case shl2P => exact completes_pointerResult h pd (shiftLeft_eq_ofNat_mul _ 2)
  case shr2P => exact completes_pointerResult h pd (ushiftRight_eq_ofNat _ 2)
  case shr1P => exact completes_pointerResult h pd (ushiftRight_eq_ofNat _ 1)
  case sumShl1P => exact completes_pointerResult h pd (sum_shiftLeft_eq_ofNat _ _ 1)
  case sumShl2P => exact completes_pointerResult h pd (sum_shiftLeft_eq_ofNat _ _ 2)

/-- Settles O21, by the value of CC. -/
theorem conditionalMoves : Obligations.ConditionalMoves := by
  intro dst src s h
  refine ⟨fun holds => ⟨?_, ?_⟩, fun fails => ?_⟩
  · exact completes_setDP h (if_pos holds)
  · exact completes_unchanged h (if_pos holds)
  · have hcc : ¬ s.astat.cc = true := Bool.eq_false_iff.mp fails
    exact ⟨completes_unchanged h (if_neg hcc), completes_setDP h (if_neg hcc)⟩

/-- Settles O22: each form writes one register of groups 0 to 3, whole or with one half kept. -/
theorem loadImmediate : Obligations.LoadImmediate := by
  intro g imm s h
  exact ⟨completes_setGen h g (withLow_eq_ofNat _ imm), completes_setGen h g (withHigh_eq_ofNat _ imm),
    completes_setGen h g (zext_eq_ofNat imm), completes_setGen h g (sext_eq_ofInt imm)⟩

end Sys2Proof.Machine
end

section
/-! PROOF. The program sequencer (42): where jumps go, loop setup, EXCPT, and the instructions that only go on. -/

namespace Sys2Proof.Machine

/-! ### Addresses as the rules write them -/

/-- A PC-relative target is counted in signed units of two bytes (30 R207). -/
theorem add_branchOffset_eq_ofInt {n : Nat} (a : Word) (o : BitVec n) :
    a + branchOffset o = BitVec.ofInt 32 (a.toInt + 2 * o.toInt) := by
  have hdouble : branchOffset o = BitVec.ofInt 32 (2 * o.toInt) :=
    calc branchOffset o = sext o * 2#32 := BitVec.shiftLeft_eq_mul_twoPow (sext o) 1
      _ = BitVec.ofInt 32 (2 * o.toInt) := by rw [sext_eq_ofInt, BitVec.mul_comm, BitVec.ofInt_mul]; rfl
  rw [hdouble, BitVec.ofInt_add, BitVec.ofInt_toInt]

theorem toNat_zext {n : Nat} (hn : n ≤ 32) (v : BitVec n) : (zext v).toNat = v.toNat :=
  BitVec.toNat_setWidth_of_le hn

/-- A loop address is counted in unsigned units of two bytes (42 R331). -/
theorem add_zext_shiftLeft_one_eq_ofNat {n : Nat} (hn : n ≤ 32) (a : Word) (o : BitVec n) :
    a + zext o <<< 1 = BitVec.ofNat 32 (a.toNat + 2 * o.toNat) := by
  rw [add_shiftLeft_eq_ofNat, toNat_zext hn, Nat.pow_one]

/-! ### Where an instruction's checks let it through -/

theorem State.atLoopEnd_eq_false (s : State) : s.atLoopEnd = false ↔ s.NotAtLoopEnd := by
  rw [State.atLoopEnd, Bool.or_eq_false_iff, State.NotAtLoopEnd, s.ends_iff, s.ends_iff, Bool.not_eq_true,
    Bool.not_eq_true]
  exact And.comm

theorem notAtLoopEnd_pass {s : State} (h : s.NotAtLoopEnd) (k : Result) : notAtLoopEnd s k = k := by
  rw [notAtLoopEnd, s.atLoopEnd_eq_false.mpr h, if_neg Bool.false_ne_true]

theorem supervisorOnly_pass {s : State} (h : s.mode ≠ .user) (k : Result) : supervisorOnly s k = k := by
  rw [supervisorOnly]
  split
  case h_1 huser => exact absurd huser h
  all_goals rfl

/-! ### The shared results -/

/-- A control transfer changes pc alone; `w` is the target as the rule writes it. -/
theorem jumpTo_eq_next {s : State} (h : s.NotAtLoopEnd) {target w : Word} (e : target = w) :
    notAtLoopEnd s (s.jumpTo target) = .next { s with pc := w } := by
  rw [notAtLoopEnd_pass h, e, State.jumpTo]

@[simp] theorem State.getLoop_setLoop (s : State) (c : LoopNo) (l : LoopRegs) : (s.setLoop c l).getLoop c = l := by
  cases c <;> rfl

@[simp] theorem State.setLoop_setLoop (s : State) (c : LoopNo) (l l' : LoopRegs) :
    (s.setLoop c l).setLoop c l' = s.setLoop c l' := by
  cases c <;> rfl

theorem State.setLoopAddresses_eq (s : State) (c : LoopNo) (so : BitVec 4) (eo : BitVec 10) :
    s.setLoopAddresses c so eo = s.setLoop c ⟨(s.getLoop c).lc, BitVec.ofNat 32 (s.pc.toNat + 2 * so.toNat),
      BitVec.ofNat 32 (s.pc.toNat + 2 * eo.toNat)⟩ := by
  rw [State.setLoopAddresses, add_zext_shiftLeft_one_eq_ofNat (by decide), add_zext_shiftLeft_one_eq_ofNat (by decide)]

/-- A loop setup outside 42 R332 writes the three registers of one loop; without a `count` the counter keeps (42 R331). -/
theorem completes_loopSetup {s : State} (hfits : s.Fits 4) (hend : s.NotAtLoopEnd) (c : LoopNo) {so : BitVec 4}
    {eo : BitVec 10} (hso : 1 ≤ so.toNat) (heo : so.toNat ≤ eo.toNat) {count : Option Word}
    (hcount : count ≠ some 0#32) :
    Completes (loopSetup s c so eo count) s
      (s.setLoop c ⟨count.getD (s.getLoop c).lc, BitVec.ofNat 32 (s.pc.toNat + 2 * so.toNat),
        BitVec.ofNat 32 (s.pc.toNat + 2 * eo.toNat)⟩) 4 := by
  have hpass : ¬ (so = 0#4 ∨ eo.toNat < so.toNat ∨ count = some 0#32 ∨ s.atLoopEnd) := by
    rintro (rfl | hbehind | hzero | hatEnd)
    · exact absurd hso (by decide)
    · omega
    · exact hcount hzero
    · exact absurd hatEnd (Bool.eq_false_iff.mp (s.atLoopEnd_eq_false.mpr hend))
  rw [loopSetup, if_neg hpass, s.setLoopAddresses_eq]
  cases count with
  | none => exact completes_retire s _ 4 hfits (s.setLoop_pc c _) (s.setLoop_mem c _)
  | some n =>
    simp only [State.getLoop_setLoop, State.setLoop_setLoop]
    exact completes_retire s _ 4 hfits (s.setLoop_pc c _) (s.setLoop_mem c _)

/-! ### The statements -/

/-- Settles O25: all five are control transfers, each with the target of its rule. -/
theorem jumps : Obligations.Jumps := by
  intro pn o12 o24 s h
  exact ⟨jumpTo_eq_next h (add_branchOffset_eq_ofInt s.pc o12), jumpTo_eq_next h (add_branchOffset_eq_ofInt s.pc o24),
    jumpTo_eq_next h rfl, jumpTo_eq_next h (ofNat_toNat_add _ _).symm, jumpTo_eq_next h rfl⟩

/-- Settles O28: the three forms are one `loopSetup` (the model's name, so not the theorem's), with no count, the pointer, or
half of it, which is not 0 from 2 on. -/
theorem loopSetup_forms : Obligations.LoopSetup := by
  intro c so eo pp s hfits hend hso heo top bottom
  refine ⟨?keeps, fun hp => ?loads, fun hp => ?loadsHalf⟩
  case keeps => exact completes_loopSetup hfits hend c hso heo (Option.some_ne_none _).symm
  case loads => exact completes_loopSetup hfits hend c hso heo (mt Option.some.inj hp)
  case loadsHalf =>
    have hhalf : s.getP pp >>> 1 = BitVec.ofNat 32 ((s.getP pp).toNat / 2) := ushiftRight_eq_ofNat _ 1
    have hne : s.getP pp >>> 1 ≠ 0#32 := by bv_omega
    rw [← hhalf]
    exact completes_loopSetup hfits hend c hso heo (mt Option.some.inj hne)

/-- Settles O33: past the loop check EXCPT is `takeException`, whose cause records nothing. -/
theorem exceptionByExcpt : Obligations.ExceptionByExcpt := by
  intro n s hend
  have hexec : exec (.excpt n) s = takeException s (.excpt n) := notAtLoopEnd_pass hend _
  rw [hexec]
  exact takeException_eq s (.excpt n)

/-- Settles O35: the three retire the state as it is; IDLE passes its two checks and retires the Idle state. -/
theorem noOperationAndIdle : Obligations.NoOperationAndIdle := by
  intro s h
  refine ⟨completes_unchanged h rfl, completes_unchanged h rfl, completes_unchanged h rfl, fun hmode hend => ?idle⟩
  case idle =>
    have hexec : exec .idle s = retire 2 { s with idle := true } :=
      (supervisorOnly_pass hmode _).trans (notAtLoopEnd_pass hend _)
    rw [hexec]
    exact completes_retire s _ 2 h rfl rfl

end Sys2Proof.Machine
end

section
/-! PROOF. The data address generators (43): where an index register moves, and cache control. -/

namespace Sys2Proof.Machine

/-! ### Around the circular buffer (43 R400)

The rule gives the offset in the buffer modulo its length; the model corrects once, over the top or under the base. -/

section

variable {b l i z : Int}

theorem emod_over_top (htop : b + l ≤ i + z) (hi : i < b + l) (hz : z ≤ l) : b + (i - b + z) % l = i + z - l := by
  rw [← Int.sub_emod_right, Int.emod_eq_of_lt (by omega) (by omega)]
  omega

theorem emod_under_base (hbase : i + z < b) (hb : b ≤ i) (hz : -l ≤ z) : b + (i - b + z) % l = i + z + l := by
  rw [← Int.add_emod_right, Int.emod_eq_of_lt (by omega) (by omega)]
  omega

theorem emod_inside (hb : b ≤ i + z) (htop : i + z < b + l) : b + (i - b + z) % l = i + z := by
  rw [Int.emod_eq_of_lt (by omega) (by omega)]
  omega

/-- The corrections of `circAdd`, of which at most one applies, give the offset modulo the length. -/
theorem corrected_eq_emod (hb : b ≤ i) (hi : i < b + l) (hlo : -l ≤ z) (hhi : z ≤ l) :
    let t := if 0 ≤ z ∧ b + l ≤ i + z then i + z - l else i + z
    (if z < 0 ∧ t < b then t + l else t) = b + (i - b + z) % l := by
  intro t
  rcases Int.lt_or_le z 0 with hneg | hpos
  · have ht : t = i + z := if_neg (fun h => absurd h.1 (by omega))
    rw [ht]
    by_cases hbase : i + z < b
    · rw [if_pos ⟨hneg, hbase⟩, emod_under_base hbase hb hlo]
    · rw [if_neg (fun h => hbase h.2), emod_inside (by omega) (by omega)]
  · rw [if_neg (fun h => absurd h.1 (by omega))]
    by_cases htop : b + l ≤ i + z
    · rw [emod_over_top htop hi hhi]
      exact if_pos ⟨hpos, htop⟩
    · rw [emod_inside (by omega) (by omega)]
      exact if_neg (fun h => htop h.2)

end

/-! ### The move of an index register -/

section

variable {s : State} {i : Quad} {z : Int} {w : Word}

theorem circAdd_linear (hl : s.l.get i = 0#32) : circAdd s i z = .ok (BitVec.ofInt 32 ((s.i.get i).toNat + z)) := by
  have hzero : (s.l.get i).toNat = 0 := congrArg BitVec.toNat hl
  rw [BitVec.ofInt_add, ofInt_toNat]
  exact if_pos hzero

theorem circAdd_around (hl : s.l.get i ≠ 0#32) (h : s.InBuffer i z) :
    circAdd s i z = .ok (BitVec.ofInt 32
      ((s.b.get i).toNat + ((s.i.get i).toNat - (s.b.get i).toNat + z) % (s.l.get i).toNat)) := by
  obtain ⟨hb, hi, hend, hlo, hhi⟩ := h
  have hpos : ¬ (s.l.get i).toNat = 0 := fun hzero => hl (BitVec.eq_of_toNat_eq hzero)
  have hok : (s.b.get i).toNat ≤ (s.i.get i).toNat ∧ (s.i.get i).toNat < (s.b.get i).toNat + (s.l.get i).toNat ∧
      (s.b.get i).toNat + (s.l.get i).toNat < 2 ^ 32 ∧ z.natAbs ≤ (s.l.get i).toNat :=
    ⟨hb, hi, hend, by omega⟩
  rw [← corrected_eq_emod (by omega) (by omega) hlo hhi]
  exact (if_neg hpos).trans (if_pos hok)

theorem circAdd_indexMoves (h : s.IndexMoves i z w) : circAdd s i z = .ok w := by
  rcases h with ⟨hlinear, rfl⟩ | ⟨hl, hin, rfl⟩
  · exact circAdd_linear hlinear
  · exact circAdd_around hl hin

/-- The move that ends an indexed access (43 R404 to R406); `t` is the state after the access. -/
theorem moveIndex_moves (t : State) (h : s.IndexMoves i z w) : moveIndex s t i (some z) = .ok (t.setI i w) := by
  rw [moveIndex, circAdd_indexMoves h]
  rfl

/-- A modification is the move of an indexed access without the access. -/
theorem modifyIndex_eq_moveIndex (s : State) (i : Quad) (z : Int) :
    modifyIndex s i z = finish s 2 (moveIndex s s i (some z)) := rfl

theorem completes_modifyIndex (hfits : s.Fits 2) (h : s.IndexMoves i z w) :
    Completes (modifyIndex s i z) s (s.setI i w) 2 := by
  rw [modifyIndex_eq_moveIndex, moveIndex_moves s h]
  exact completes_retire s _ 2 hfits (s.setI_pc i w) (s.setI_mem i w)

theorem modifyIndex_corner (h : s.IndexCorner i z) : modifyIndex s i z = .refused .circularCorner := by
  rw [modifyIndex_eq_moveIndex, moveIndex_corner s s i z h]
  rfl

/-- Both outcomes of a modification, for an index in its buffer or outside. -/
theorem modifyIndex_outcomes (hfits : s.Fits 2) (i : Quad) (z : Int) :
    (∀ w, s.IndexMoves i z w → Completes (modifyIndex s i z) s (s.setI i w) 2) ∧
      (s.IndexCorner i z → modifyIndex s i z = .refused .circularCorner) :=
  ⟨fun _ => completes_modifyIndex hfits, modifyIndex_corner⟩

/-! ### Cache control -/

/-- The plain form leaves the state, the `++` form moves its pointer by one line (43 R410 to R413). -/
theorem completes_cacheControl (hfits : s.Fits 2) (pp : PReg) :
    Completes (cacheControl s false pp) s s 2 ∧
      Completes (cacheControl s true pp) s (s.setP pp (s.getP pp + 32#32)) 2 :=
  ⟨completes_unchanged hfits rfl, completes_pointerResult hfits pp rfl⟩

end

/-! ### The statements -/

/-- Settles O43: the six forms are one `modifyIndex`, each by its own amount. -/
theorem indexModification : Obligations.IndexModification := by
  intro i m s hfits
  exact ⟨modifyIndex_outcomes hfits i _, modifyIndex_outcomes hfits i _, modifyIndex_outcomes hfits i 2,
    modifyIndex_outcomes hfits i (-2), modifyIndex_outcomes hfits i 4, modifyIndex_outcomes hfits i (-4)⟩

/-- Settles O52: the four instructions are one `cacheControl` (the model's name, so not the theorem's). -/
theorem cacheControl_forms : Obligations.CacheControl := by
  intro pp s hfits
  obtain ⟨hplain, hmoved⟩ := completes_cacheControl hfits pp
  exact ⟨hplain, hmoved, hplain, hmoved, hplain, hmoved, hplain, hmoved⟩

end Sys2Proof.Machine
end

section
/-! PROOF. Events and exceptions (60): the operating mode from the bits of IPEND. -/

namespace Sys2Proof.Machine

/-! ### The mode from the bits of IPEND (60 R421) -/

/-- The mask of `modeOf`: the events below emulation. Bit 0 is emulation itself; bit 4 is no event. -/
theorem eventMask_getLsbD (k : Nat) : (0xFFEE#32).getLsbD k = decide (1 ≤ k ∧ k ≤ 15 ∧ k ≠ 4) := by
  by_cases hk : k < 32
  · revert k
    decide
  · rw [BitVec.getLsbD_of_ge _ _ (by omega), eq_comm, decide_eq_false_iff_not]
    omega

theorem and_eventMask_eq_zero_iff (w : Word) :
    w &&& 0xFFEE#32 = 0#32 ↔ ∀ k, 1 ≤ k → k ≤ 15 → k ≠ 4 → w.getLsbD k = false := by
  constructor
  · intro h k hlo hhi h4
    have hbit : (w &&& 0xFFEE#32).getLsbD k = false := by rw [h, BitVec.getLsbD_zero]
    simpa [eventMask_getLsbD, hlo, hhi, h4] using hbit
  · intro h
    apply BitVec.eq_of_getLsbD_eq
    intro k _
    rw [BitVec.getLsbD_and, eventMask_getLsbD, BitVec.getLsbD_zero]
    by_cases hk : 1 ≤ k ∧ k ≤ 15 ∧ k ≠ 4
    · obtain ⟨hlo, hhi, h4⟩ := hk
      rw [h k hlo hhi h4, Bool.false_and]
    · rw [decide_eq_false hk, Bool.and_false]

/-- When each branch of `modeOf` is taken. -/
theorem modeOf_eq_iff (w : Word) :
    (modeOf w = .emulation ↔ w.getLsbD 0 = true) ∧
    (modeOf w = .supervisor ↔ w.getLsbD 0 = false ∧ w &&& 0xFFEE#32 ≠ 0#32) ∧
    (modeOf w = .user ↔ w.getLsbD 0 = false ∧ w &&& 0xFFEE#32 = 0#32) := by
  unfold modeOf bit
  split_ifs with hemu hevent
  · simp [hemu]
  · simpa [hevent] using hemu
  · simpa [not_not.mp hevent] using hemu

/-! ### The statement -/

/-- Settles O2: the three branches of `modeOf`, with its mask read bit by bit. -/
theorem modeFollowsIpend : Obligations.ModeFollowsIpend := by
  intro s
  obtain ⟨hemulation, hsupervisor, huser⟩ := modeOf_eq_iff s.ipend
  refine ⟨hemulation, ?supervisor, ?user⟩
  case supervisor =>
    rw [State.mode, hsupervisor, ne_eq, and_eventMask_eq_zero_iff]
    push Not
    simp only [Bool.not_eq_false]
  case user =>
    rw [State.mode, huser, and_eventMask_eq_zero_iff]
    constructor
    · rintro ⟨h0, hevents⟩ k hhi h4
      obtain rfl | hlo := Nat.eq_zero_or_pos k
      · exact h0
      · exact hevents k hlo hhi h4
    · exact fun h => ⟨h 0 (by decide) (by decide), fun k _ => h k⟩

end Sys2Proof.Machine
end

section
/-! PROOF. What an instruction that answers a next state can have done, said once for all of them: it took an exception, or it
went on from a state that keeps what no instruction changes, or it transferred control. The statements about code (20 R143),
good states, the modes (60 R423) and the end of the address space (10 R65) are read off from this. -/

namespace Sys2Proof.Machine

/-! ### What the effects of an instruction keep -/

/-- What every effect of a sequential instruction keeps: pc, the code, the mode, what belongs to Supervisor mode while in User
mode, and, at an even pc, the invariant of good states: LSETUP counts its two even addresses from pc. -/
structure State.Keeps (s t : State) : Prop where
  pc : t.pc = s.pc
  fetched : t.fetched = s.fetched
  code : ∀ x ∈ s.fetched, t.byteAt x = s.byteAt x
  mode : t.mode = s.mode
  supervisor : s.mode = .user → s.SameSupervisor t
  inv : s.pc.toNat % 2 = 0 → s.Inv → t.Inv

theorem State.SameSupervisor.refl (s : State) : s.SameSupervisor s := by
  simp only [State.SameSupervisor, and_self]

theorem State.SameSupervisor.trans {s t u : State} (h : s.SameSupervisor t) (g : t.SameSupervisor u) :
    s.SameSupervisor u := by
  simp only [State.SameSupervisor] at *
  simp only [g, h, and_self]

theorem State.Keeps.refl (s : State) : s.Keeps s :=
  ⟨rfl, rfl, fun _ _ => rfl, rfl, fun _ => .refl s, fun _ => id⟩

theorem State.Keeps.trans {s t u : State} (h : s.Keeps t) (g : t.Keeps u) : s.Keeps u where
  pc := g.pc.trans h.pc
  fetched := g.fetched.trans h.fetched
  code x hx := (g.code x (h.fetched ▸ hx)).trans (h.code x hx)
  mode := g.mode.trans h.mode
  supervisor hm := (h.supervisor hm).trans (g.supervisor (h.mode.trans hm))
  inv hp hi := g.inv (h.pc ▸ hp) (h.inv hp hi)

/-- An update of registers that no rule protects, which are those that `Keeps` says nothing about. -/
theorem State.keeps_of_frame {s t : State}
    (h : t = { s with r := t.r, p := t.p, usp := t.usp, i := t.i, m := t.m, b := t.b, l := t.l, a0 := t.a0, a1 := t.a1,
                      astat := t.astat, rets := t.rets, draws := t.draws }) : s.Keeps t := by
  rw [h]
  exact ⟨rfl, rfl, fun _ _ => rfl, rfl, fun _ => by simp [State.SameSupervisor],
    fun _ hi => { hi with }⟩

/-- An update out of User mode that leaves pc, memory, the code and the mode, and makes no good state a bad one. -/
theorem State.keeps_of_supervisor {s t : State} (hm : s.mode ≠ .user) (hpc : t.pc = s.pc) (hf : t.fetched = s.fetched)
    (hmem : t.mem = s.mem) (hmode : t.mode = s.mode) (hi : s.Inv → t.Inv) : s.Keeps t where
  pc := hpc
  fetched := hf
  code _ _ := by rw [State.byteAt, State.byteAt, hmem]
  mode := hmode
  supervisor h := absurd h hm
  inv _ := hi

/-! ### Registers -/

theorem State.keeps_setD (s : State) (n : DReg) (v : Word) : s.Keeps (s.setD n v) := State.keeps_of_frame rfl

theorem State.keeps_setSp (s : State) (v : Word) : s.Keeps (s.setSp v) := by
  cases hm : s.mode with
  | user =>
    rw [State.setSp, hm]
    exact State.keeps_of_frame rfl
  | supervisor | emulation =>
    rw [State.setSp, hm]
    exact State.keeps_of_supervisor (by simp [hm]) rfl rfl rfl rfl
      fun hi => { hi with }

theorem State.keeps_setP (s : State) (n : PReg) (v : Word) : s.Keeps (s.setP n v) := by
  cases n with
  | sp => exact s.keeps_setSp v
  | _ => exact State.keeps_of_frame rfl

theorem State.keeps_setDP (s : State) (n : DPReg) (v : Word) : s.Keeps (s.setDP n v) := by
  cases n with
  | d r => exact s.keeps_setD r v
  | p r => exact s.keeps_setP r v

theorem State.keeps_setGen (s : State) (g : GenReg) (v : Word) : s.Keeps (s.setGen g v) := by
  cases g with
  | d r => exact s.keeps_setD r v
  | p r => exact s.keeps_setP r v
  | _ => exact State.keeps_of_frame rfl

/-- The two addresses of a loop are even (41 R263). -/
def LoopRegs.Even (l : LoopRegs) : Prop := l.lt.toNat % 2 = 0 ∧ l.lb.toNat % 2 = 0

theorem State.Inv.even {s : State} (h : s.Inv) (k : LoopNo) : (s.getLoop k).Even := by
  cases k
  · exact h.loop0_even
  · exact h.loop1_even

theorem State.keeps_setLoop (s : State) (k : LoopNo) (l : LoopRegs)
    (h : s.pc.toNat % 2 = 0 → (s.getLoop k).Even → l.Even) :
    s.Keeps (s.setLoop k l) where
  pc := s.setLoop_pc k l
  fetched := s.setLoop_fetched k l
  code _ _ := by rw [State.byteAt, State.byteAt, s.setLoop_mem]
  mode := State.mode_congr (s.setLoop_ipend k l)
  supervisor _ := by simp [State.SameSupervisor]
  inv hp hi := by
    have he := h hp (hi.even k)
    cases k
    · exact { hi with loop0_even := he }
    · exact { hi with loop1_even := he }

/-! ### Bits that an update leaves -/

/-- Bits set outside a mask leave the bits under it. -/
theorem or_and_of_apart {n : Nat} {w v m c : BitVec n} (hv : v &&& m = 0#n) (h : w &&& m = c) :
    (w ||| v) &&& m = c := by
  rw [BitVec.and_or_distrib_right, hv, h, BitVec.or_zero]

/-- Bits cleared anywhere leave 0 where there was 0. -/
theorem and_and_eq_zero {n : Nat} {w m : BitVec n} (v : BitVec n) (h : w &&& m = 0#n) : (w &&& v) &&& m = 0#n := by
  rw [BitVec.and_assoc, BitVec.and_comm v, ← BitVec.and_assoc, h, BitVec.zero_and]

/-- IMASK after software wrote it (10 R74). -/
theorem imaskOf_fixed (v : Word) : imaskOf v &&& 0xFFFF001F#32 = 0x1F#32 := by
  rw [imaskOf, BitVec.and_or_distrib_right, BitVec.and_assoc]
  exact (congrArg (· ||| _) BitVec.and_zero).trans BitVec.zero_or

/-- The events that software or the environment can latch (10 R74; 42 R340; 60 R442). -/
theorem setBit_ilat_fixed {k : Nat} (hk : k = 2 ∨ (5 ≤ k ∧ k ≤ 15)) {w : Word} (h : w &&& 0xFFFF001B#32 = 0#32) :
    setBit w k &&& 0xFFFF001B#32 = 0#32 := by
  refine or_and_of_apart ?_ h
  obtain rfl | ⟨hlo, hhi⟩ := hk
  · decide
  · interval_cases k <;> decide

/-- The bits of IPEND that stand for events, and bit 4. -/
theorem setBit_ipend_fixed {k : Nat} (hlo : 1 ≤ k) (hhi : k ≤ 15) {w : Word} (h : w &&& 0xFFFF0001#32 = 0#32) :
    setBit w k &&& 0xFFFF0001#32 = 0#32 :=
  or_and_of_apart (by interval_cases k <;> decide) h

/-! ### The mode from IPEND -/

/-- Bit 4 of IPEND, which a push or a pop of RETI changes, is no event (60 R421). -/
theorem modeOf_congr {v w : Word} (h : v &&& 0xFFEF#32 = w &&& 0xFFEF#32) : modeOf v = modeOf w := by
  have hmask : ∀ x : Word, x &&& 0xFFEE#32 = (x &&& 0xFFEF#32) &&& 0xFFEE#32 := fun x => by
    rw [BitVec.and_assoc]; rfl
  have hbit : ∀ x : Word, bit x 0 = (x &&& 0xFFEF#32).getLsbD 0 := fun x => by simp [bit]
  rw [modeOf, modeOf, hmask v, hmask w, hbit v, hbit w, h]

theorem State.keeps_afterPop (s : State) (r : Reg) (h : s.mayName r = true) : s.Keeps (s.afterPop r) := by
  unfold State.afterPop
  split
  case isFalse => exact .refl s
  case isTrue hr =>
    have hm : s.mode ≠ .user := by subst hr; simpa [State.mayName, regIsSupervisor] using h
    refine State.keeps_of_supervisor hm rfl rfl rfl (modeOf_congr ?_) fun hi =>
      { hi with ipend_fixed := setBit_ipend_fixed (by decide) (by decide) hi.ipend_fixed }
    exact or_and_of_apart (by decide) rfl

theorem State.keeps_afterPush (s : State) (r : Reg) (h : s.mayName r = true) : s.Keeps (s.afterPush r) := by
  unfold State.afterPush
  split
  case isFalse => exact .refl s
  case isTrue hr =>
    have hm : s.mode ≠ .user := by subst hr; simpa [State.mayName, regIsSupervisor] using h
    refine State.keeps_of_supervisor hm rfl rfl rfl (modeOf_congr ?_) fun hi =>
      { hi with ipend_fixed := and_and_eq_zero _ hi.ipend_fixed }
    rw [clearBit, BitVec.and_assoc]
    rfl

/-! ### Memory-mapped registers -/

theorem State.keeps_readMmr (s : State) (m : CoreMmr) : s.Keeps (s.readMmr m).2 := by
  cases m with
  | tcount =>
    rw [State.readMmr]
    split
    · exact State.keeps_of_frame rfl
    · exact .refl s
  | _ => exact .refl s

theorem checkReserved_ok {v reserved : Word} {t u : State} (h : checkReserved v reserved t = .ok u) :
    v &&& reserved = 0#32 ∧ u = t := by
  unfold checkReserved at h
  split at h
  · cases h
  · rename_i hv
    cases h
    exact ⟨by simpa using hv, rfl⟩

theorem State.storedField_frame (s : State) (f v : Word) :
    (s.storedField f v).2 = { s with draws := (s.storedField f v).2.draws } := by
  unfold State.storedField
  split <;> rfl

theorem State.keeps_writeMmr {s t : State} (hm : s.mode ≠ .user) {m : CoreMmr} {v : Word}
    (h : s.writeMmr m v = .ok t) : s.Keeps t := by
  cases m with
  | evt k | tperiod | tscale | tcount =>
    cases h
    exact State.keeps_of_supervisor hm rfl rfl rfl rfl fun hi => { hi with }
  | imask =>
    obtain ⟨-, rfl⟩ := checkReserved_ok h
    exact State.keeps_of_supervisor hm rfl rfl rfl rfl fun hi => { hi with imask_fixed := imaskOf_fixed v }
  | ipend => cases h
  | ilat =>
    cases h
    exact State.keeps_of_supervisor hm rfl rfl rfl rfl fun hi =>
      { hi with ilat_fixed := and_and_eq_zero _ hi.ilat_fixed }
  | iprio =>
    cases h
    rw [s.storedField_frame]
    exact State.keeps_of_supervisor hm rfl rfl rfl rfl fun hi => { hi with }
  | tcntl =>
    obtain ⟨hv, rfl⟩ := checkReserved_ok h
    exact State.keeps_of_supervisor hm rfl rfl rfl rfl fun hi => { hi with tcntl_fixed := hv }

/-! ### Memory -/

theorem keeps_memRead {s t : State} {a v : Word} {z : Size} (h : memRead s a z = .ok (v, t)) : s.Keeps t := by
  obtain ⟨-, -, m, -, hread⟩ | ⟨rfl, -⟩ := memRead_ok s t a z v h
  · rw [show t = (s.readMmr m).2 by rw [hread]]
    exact s.keeps_readMmr m
  · exact .refl _

/-- A store that is possible ends below the MMRs. -/
theorem State.CanStore.end_le {s : State} {a : Word} {z : Size} (h : s.CanStore a z.bytes) :
    a.toNat + z.bytes ≤ 2 ^ 32 := by
  have hlast := (h.2 (z.bytes - 1) (Nat.sub_lt z.bytes_pos Nat.one_pos)).1.lt
  have := z.bytes_pos
  omega

/-- A store goes to no byte that was fetched, so it leaves the code and keeps it apart from what is stored (20 R143). -/
theorem State.keeps_putBytes {s : State} {a : Word} {z : Size} (v : Word) (h : s.CanStore a z.bytes) :
    s.Keeps (s.putBytes a.toNat z v) := by
  have houtside : ∀ x ∈ s.fetched, x < a.toNat ∨ a.toNat + z.bytes ≤ x := by
    intro x hx
    by_contra hin
    have hk := (h.2 (x - a.toNat) (by omega)).2
    rw [Nat.add_sub_cancel' (by omega)] at hk
    exact hk hx
  obtain ⟨-, hbytes, hstored⟩ := s.putBytes_stored a.toNat z v
  refine ⟨rfl, rfl, fun x hx => hbytes x (houtside x hx), rfl, fun _ => .refl s, fun _ hi => ?inv⟩
  exact { hi with
    mem_canonical := s.putBytes_mem_wf _ z v hi.mem_canonical h.end_le
    stored_canonical := AddrSet.insertAll_wf _ _ hi.stored_canonical
    code_apart := fun x hx hx' => by
      rcases (hstored x).mp hx' with hold | ⟨hlo, hhi⟩
      · exact hi.code_apart x hx hold
      · rcases houtside x hx with hlt | hge <;> omega }

theorem keeps_memWrite {s t : State} {a v : Word} {z : Size} (h : memWrite s a z v = .ok t) : s.Keeps t := by
  obtain ⟨-, hm, m, -, hwrite⟩ | ⟨rfl, hcan⟩ := memWrite_ok s t a z v h
  · exact State.keeps_writeMmr hm hwrite
  · exact State.keeps_putBytes v hcan

/-! ### A register as a source and as a destination -/

theorem checkPrivilege_ok {s : State} {r : Reg} (h : checkPrivilege s r = .ok ()) : s.mayName r = true := by
  unfold checkPrivilege at h
  split at h
  · cases h
  · rename_i hr
    simpa [State.mayName, not_and_or, or_iff_not_imp_left] using hr

theorem keeps_readReg {s t : State} {r : Reg} {v : Word} (h : readReg s r = .ok (v, t)) : s.Keeps t := by
  by_cases hr : r = .emudat
  · subst hr; cases h
  · rw [readReg_valueOf s r hr] at h
    cases h
    rw [s.afterRead_draws]
    exact State.keeps_of_frame rfl

theorem writeLoop_ok {s t : State} {k : LoopNo} {l : LoopRegs} (h : writeLoop s k l = .ok t) : t = s.setLoop k l := by
  unfold writeLoop at h
  split at h
  · cases h
  · cases h; rfl

theorem evenLoopAddress_ok {v : Word} {x : Res State} {t : State} (h : evenLoopAddress v x = .ok t) :
    v.toNat % 2 = 0 ∧ x = .ok t := by
  unfold evenLoopAddress at h
  split at h
  · cases h
  · rename_i hv
    exact ⟨by simpa [bit_eq_decide] using hv, h⟩

theorem writeReg_syscfg_ok {s t : State} {v : Word} (h : writeReg s .syscfg v = .ok t) :
    (v = 0x30#32 ∨ v = 0x32#32) ∧ t = { s with syscfg := v } := by
  rw [writeReg] at h
  split at h
  case isTrue hv =>
    cases h
    exact ⟨by simpa [syscfgAccepts] using hv, rfl⟩
  case isFalse => cases h

theorem keeps_writeReg {s t : State} {r : Reg} {v : Word} (hname : s.mayName r = true) (h : writeReg s r v = .ok t) :
    s.Keeps t := by
  have hsup : regIsSupervisor r = true → s.mode ≠ .user := fun hr => by simpa [State.mayName, hr] using hname
  cases r with
  | gen g => cases h; exact s.keeps_setGen g v
  | a0x | a0w | a1x | a1w | rets => cases h; exact State.keeps_of_frame rfl
  | astat =>
    obtain ⟨a, -, ha⟩ := (Res.bind_ok _ _ _).mp h
    cases ha
    exact State.keeps_of_frame rfl
  | lc k =>
    rw [writeLoop_ok h]
    exact s.keeps_setLoop k _ fun _ => id
  | lt k =>
    obtain ⟨hv, h⟩ := evenLoopAddress_ok h
    rw [writeLoop_ok h]
    exact s.keeps_setLoop k _ fun _ he => ⟨hv, he.2⟩
  | lb k =>
    obtain ⟨hv, h⟩ := evenLoopAddress_ok h
    rw [writeLoop_ok h]
    exact s.keeps_setLoop k _ fun _ he => ⟨he.1, hv⟩
  | cycles | cycles2 => cases h; exact .refl s
  | seqstat | emudat => cases h
  | syscfg =>
    obtain ⟨hv, rfl⟩ := writeReg_syscfg_ok h
    exact State.keeps_of_supervisor (hsup rfl) rfl rfl rfl rfl fun hi => { hi with syscfg_fixed := hv }
  | usp | reti | retx | retn | rete =>
    cases h
    exact State.keeps_of_supervisor (hsup rfl) rfl rfl rfl rfl fun hi => { hi with }

end Sys2Proof.Machine
end

section
/-! PROOF. What every instruction can do where it answers a next state, by the shared operation it ends in. -/

namespace Sys2Proof.Machine

/-! ### Instructions that only go on -/

/-- The instruction ends at its next address in order, with effects that keep what `Keeps` says. -/
def GoesOn (o : Result) (s : State) (len : Nat) : Prop := ∃ u, s.Keeps u ∧ o = retire len u

section

variable (s : State)

theorem goesOn_unchanged (len : Nat) : GoesOn (retire len s) s len := ⟨s, .refl s, rfl⟩

theorem goesOn_setD (rd : DReg) (v : Word) : GoesOn (retire 2 (s.setD rd v)) s 2 := ⟨_, s.keeps_setD rd v, rfl⟩

theorem goesOn_setGen (g : GenReg) (v : Word) : GoesOn (retire 4 (s.setGen g v)) s 4 := ⟨_, s.keeps_setGen g v, rfl⟩

theorem goesOn_aluResult (rd : DReg) (v : Word) (f : Astat) : GoesOn (aluResult s rd v f) s 2 :=
  ⟨_, State.keeps_of_frame rfl, rfl⟩

theorem goesOn_flagResult (f : Astat) : GoesOn (flagResult s f) s 2 := ⟨_, State.keeps_of_frame rfl, rfl⟩

theorem goesOn_pointerResult (pd : PReg) (v : Word) : GoesOn (pointerResult s pd v) s 2 := ⟨_, s.keeps_setP pd v, rfl⟩

theorem goesOn_cacheControl (post : Bool) (pp : PReg) : GoesOn (cacheControl s post pp) s 2 := by
  cases post with
  | false => exact goesOn_unchanged s 2
  | true => exact ⟨_, s.keeps_setP pp _, rfl⟩

/-- A conditional move, whichever value of CC it asks for. -/
theorem goesOn_conditionalMove {c : Prop} [Decidable c] {u v : State} (hu : s.Keeps u) (hv : s.Keeps v) :
    GoesOn (retire 2 (if c then u else v)) s 2 := by
  refine ⟨_, ?_, rfl⟩
  split
  · exact hu
  · exact hv

end

/-- The instructions of `onlyGoesOn` retire in every state. -/
theorem exec_onlyGoesOn (i : Instr) (s : State) (h : onlyGoesOn i = true) :
    GoesOn (exec i s) s (2 * (encode i).length) := by
  cases i
  case nop | csync | ssync => exact goesOn_unchanged s 2
  case ccToD | mulD | movImmD => exact goesOn_setD s _ _
  case ldiLo | ldiHi | ldiZ | ldiX => exact goesOn_setGen s _ _
  case asrD | lsrD | lslD | sextHalf | zextHalf | sextByte | zextByte | negD | notD | bitset | bittgl | bitclr | asrImm
    | lsrImm | lslImm | addD | subD | andD | orD | xorD | addImmD => exact goesOn_aluResult s _ _ _
  case dToCc | notCc | ccSetBit | ccOrBit | ccAndBit | ccXorBit | bitSetCc | bitOrCc | bitAndCc | bitXorCc | bittstNot
    | bittst | cmpEqD | cmpEqDImm | cmpEqP | cmpEqPImm | cmpLtD | cmpLtDImm | cmpLtP | cmpLtPImm | cmpLeD | cmpLeDImm
    | cmpLeP | cmpLePImm | cmpLtuD | cmpLtuDImm | cmpLtuP | cmpLtuPImm | cmpLeuD | cmpLeuDImm | cmpLeuP | cmpLeuPImm
    | cmpEqAcc | cmpLtAcc | cmpLeAcc => exact goesOn_flagResult s _
  case subP | shl2P | shr2P | shr1P | sumShl1P | sumShl2P | addP | addPShl1 | addPShl2 | movImmP | addImmP =>
    exact goesOn_pointerResult s _ _
  case prefetch | flushinv | flush | iflush => exact goesOn_cacheControl s _ _
  case movIfNotCc => exact goesOn_conditionalMove s (.refl s) (s.keeps_setDP _ _)
  case movIfCc => exact goesOn_conditionalMove s (s.keeps_setDP _ _) (.refl s)
  all_goals cases h

/-! ### Sequential instructions -/

/-- Where the instruction answers a next state, it took an exception in the state before it, or it went on. -/
def Sequential (o : Result) (s : State) (len : Nat) : Prop :=
  ∀ t, o = .next t → (∃ c, takeException s c = .next t) ∨ ∃ u, s.Keeps u ∧ retire len u = .next t

section

variable {s : State} {len : Nat}

/-- Effects that are kept, and then the next address. -/
theorem State.Keeps.sequential {u : State} (h : s.Keeps u) : Sequential (retire len u) s len := fun _ ht => .inr ⟨u, h, ht⟩

theorem GoesOn.sequential {o : Result} (h : GoesOn o s len) : Sequential o s len := by
  obtain ⟨u, hu, rfl⟩ := h
  exact hu.sequential

theorem sequential_refused (r : Refusal) : Sequential (.refused r) s len := fun _ ht => nomatch ht

theorem sequential_ite {c : Prop} [Decidable c] {o p : Result} (ho : Sequential o s len) (hp : Sequential p s len) :
    Sequential (if c then o else p) s len := by
  split
  · exact ho
  · exact hp

theorem sequential_finish {x : Res State} (h : ∀ u, x = .ok u → s.Keeps u) : Sequential (finish s len x) s len := by
  intro t ht
  obtain ⟨u, hx, hu⟩ | ⟨c, -, hc⟩ := finish_next s t len x ht
  · exact .inr ⟨u, h u hx, hu⟩
  · exact .inl ⟨c, hc⟩

theorem sequential_supervisorOnly {k : Result} (h : s.mode ≠ .user → Sequential k s len) :
    Sequential (supervisorOnly s k) s len := by
  intro t ht
  obtain ⟨-, hc⟩ | ⟨hm, hk⟩ := supervisorOnly_next s t k ht
  · exact .inl ⟨_, hc⟩
  · exact h hm t hk

theorem sequential_notAtLoopEnd {k : Result} (h : Sequential k s len) : Sequential (notAtLoopEnd s k) s len :=
  fun t ht => h t (notAtLoopEnd_next s t k ht).2

/-! ### Data accesses -/

theorem sequential_load {a : Word} {z : Size} {k : Word → State → State} (hk : ∀ v u, s.Keeps u → s.Keeps (k v u)) :
    Sequential (load s len a z k) s len := by
  refine sequential_finish fun u hu => ?_
  obtain ⟨⟨v, t⟩, hread, hok⟩ := (Res.bind_ok _ _ _).mp hu
  cases hok
  exact hk v t (keeps_memRead hread)

theorem sequential_store {a v : Word} {z : Size} {k : State → State} (hk : ∀ u, s.Keeps u → s.Keeps (k u)) :
    Sequential (store s len a z v k) s len := by
  refine sequential_finish fun u hu => ?_
  obtain ⟨t, hwrite, hok⟩ := (Res.bind_ok _ _ _).mp hu
  cases hok
  exact hk t (keeps_memWrite hwrite)

theorem sequential_loadD (pp : PReg) (m : Word) (z : Size) (ext : Word → Word) (rr : DReg) :
    Sequential (loadD s pp m z ext rr) s 2 :=
  sequential_load fun _ u hu => hu.trans ((u.keeps_setD _ _).trans (State.keeps_setP _ _ _))

theorem sequential_loadDAt (a : Word) (z : Size) (ext : Word → Word) (rr : DReg) :
    Sequential (loadDAt s len a z ext rr) s len :=
  sequential_load fun _ u hu => hu.trans (u.keeps_setD _ _)

theorem sequential_loadPAt (a : Word) (pr : PReg) : Sequential (loadPAt s len a pr) s len :=
  sequential_load fun _ u hu => hu.trans (u.keeps_setP _ _)

theorem sequential_loadPMoving (pp : PReg) (m : Word) (pr : PReg) : Sequential (loadPMoving s pp m pr) s 2 :=
  sequential_ite (sequential_refused _)
    (sequential_load fun _ u hu => hu.trans ((u.keeps_setP _ _).trans (State.keeps_setP _ _ _)))

theorem sequential_storeMoving (pp : PReg) (m : Word) (z : Size) (v : Word) : Sequential (storeMoving s pp m z v) s 2 :=
  sequential_store fun u hu => hu.trans (u.keeps_setP _ _)

theorem sequential_storeAt (a : Word) (z : Size) (v : Word) : Sequential (storeAt s len a z v) s len :=
  sequential_store fun _ hu => hu

theorem keeps_movePointer (pp pi : PReg) {t : State} (h : s.Keeps t) : s.Keeps (movePointer s t pp pi) := by
  unfold movePointer
  split
  · exact h
  · exact h.trans (t.keeps_setP _ _)

/-- A load of the format LDSTpmod, whichever part of the register it writes. -/
theorem sequential_loadPmod (pp pi : PReg) (z : Size) (rr : DReg) (value : Word → State → Word) :
    Sequential (load s 2 (s.getP pp) z fun v t => movePointer s (t.setD rr (value v t)) pp pi) s 2 :=
  sequential_load fun _ u hu => keeps_movePointer pp pi (hu.trans (u.keeps_setD _ _))

theorem sequential_storePmod (pp pi : PReg) (z : Size) (v : Word) :
    Sequential (store s 2 (s.getP pp) z v fun t => movePointer s t pp pi) s 2 :=
  sequential_store fun _ hu => keeps_movePointer pp pi hu

theorem keeps_moveIndex {t u : State} {i : Quad} {m : Option Int} (h : s.Keeps t) (hu : moveIndex s t i m = .ok u) :
    s.Keeps u := by
  cases m with
  | none => cases hu; exact h
  | some z =>
    obtain ⟨w, -, hok⟩ := (Res.bind_ok _ _ _).mp hu
    cases hok
    exact h.trans (State.keeps_of_frame rfl)

theorem sequential_modifyIndex (i : Quad) (z : Int) : Sequential (modifyIndex s i z) s 2 :=
  sequential_finish fun _ hu => keeps_moveIndex (m := some z) (.refl s) hu

theorem sequential_loadI (i : Quad) (m : Option Int) (z : Size) (put : Word → Word → Word) (rr : DReg) :
    Sequential (loadI s i m z put rr) s 2 := by
  refine sequential_finish fun u hu => ?_
  obtain ⟨⟨v, t⟩, hread, hmove⟩ := (Res.bind_ok _ _ _).mp hu
  exact keeps_moveIndex ((keeps_memRead hread).trans (State.keeps_setD _ _ _)) hmove

theorem sequential_storeI (i : Quad) (m : Option Int) (z : Size) (v : Word) : Sequential (storeI s i m z v) s 2 := by
  refine sequential_finish fun u hu => ?_
  obtain ⟨t, hwrite, hmove⟩ := (Res.bind_ok _ _ _).mp hu
  exact keeps_moveIndex (keeps_memWrite hwrite) hmove

/-! ### The stack -/

theorem keeps_pushList {a : Word} {vs : List Word} {t : State} {x : Word × State} (h : s.Keeps t)
    (hx : pushList t a vs = .ok x) : s.Keeps x.2 := by
  induction vs generalizing t a with
  | nil => cases hx; exact h
  | cons v vs ih =>
    obtain ⟨u, hwrite, hrest⟩ := (Res.bind_ok _ _ _).mp hx
    exact ih (h.trans (keeps_memWrite hwrite)) hrest

theorem keeps_popList {a : Word} {rs : List DPReg} {t : State} {x : Word × State} (h : s.Keeps t)
    (hx : popList t a rs = .ok x) : s.Keeps x.2 := by
  induction rs generalizing t a with
  | nil => cases hx; exact h
  | cons r rs ih =>
    obtain ⟨⟨v, u⟩, hread, hrest⟩ := (Res.bind_ok _ _ _).mp hx
    exact ih ((h.trans (keeps_memRead hread)).trans (u.keeps_setDP r v)) hrest

theorem sequential_pushMultiple (rs : List DPReg) : Sequential (pushMultiple s rs) s 2 := by
  refine sequential_finish fun u hu => ?_
  obtain ⟨x, hpush, hok⟩ := (Res.bind_ok _ _ _).mp hu
  cases hok
  exact (keeps_pushList (.refl s) hpush).trans (x.2.keeps_setSp _)

theorem sequential_popMultiple (rs : List DPReg) : Sequential (popMultiple s rs) s 2 := by
  refine sequential_finish fun u hu => ?_
  obtain ⟨x, hpop, hok⟩ := (Res.bind_ok _ _ _).mp hu
  cases hok
  exact (keeps_popList (.refl s) hpop).trans (x.2.keeps_setSp _)

theorem sequential_numberedOnly (pr : PReg) {k : Result} (h : Sequential k s len) :
    Sequential (numberedOnly pr k) s len :=
  sequential_ite h (sequential_refused _)

theorem mayName_congr {t : State} (h : t.mode = s.mode) (r : Reg) : t.mayName r = s.mayName r := by
  rw [State.mayName, State.mayName, h]

theorem sequential_popReg (r : Reg) : Sequential (execPopReg r s) s 2 := by
  refine sequential_ite (sequential_refused _) (sequential_ite (sequential_refused _) (sequential_finish fun u hu => ?_))
  obtain ⟨_, hname, hu⟩ := (Res.bind_ok _ _ _).mp hu
  obtain ⟨⟨v, t⟩, hread, hu⟩ := (Res.bind_ok _ _ _).mp hu
  obtain ⟨t', hwrite, hok⟩ := (Res.bind_ok _ _ _).mp hu
  cases hok
  have hname := checkPrivilege_ok hname
  have hread := keeps_memRead hread
  have hwrite := keeps_writeReg ((mayName_congr hread.mode r).trans hname) hwrite
  have hsp := (hread.trans hwrite).trans (t'.keeps_setSp (s.sp + 4#32))
  exact hsp.trans (State.keeps_afterPop _ r ((mayName_congr hsp.mode r).trans hname))

theorem sequential_pushReg (r : Reg) : Sequential (execPushReg r s) s 2 := by
  refine sequential_ite (sequential_refused _) (sequential_ite (sequential_refused _) (sequential_finish fun u hu => ?_))
  obtain ⟨_, hname, hu⟩ := (Res.bind_ok _ _ _).mp hu
  obtain ⟨⟨v, t⟩, hread, hu⟩ := (Res.bind_ok _ _ _).mp hu
  obtain ⟨t', hwrite, hok⟩ := (Res.bind_ok _ _ _).mp hu
  cases hok
  have hname := checkPrivilege_ok hname
  have hsp := ((keeps_readReg hread).trans (keeps_memWrite hwrite)).trans (t'.keeps_setSp (s.sp - 4#32))
  exact hsp.trans (State.keeps_afterPush _ r ((mayName_congr hsp.mode r).trans hname))

theorem sequential_link (f : BitVec 16) : Sequential (execLink f s) s 4 := by
  refine sequential_finish fun u hu => ?_
  obtain ⟨t, hrets, hu⟩ := (Res.bind_ok _ _ _).mp hu
  obtain ⟨t', hfp, hok⟩ := (Res.bind_ok _ _ _).mp hu
  cases hok
  exact ((keeps_memWrite hrets).trans (keeps_memWrite hfp)).trans
    ((t'.keeps_setP _ _).trans (State.keeps_setSp _ _))

theorem sequential_unlink : Sequential (execUnlink s) s 4 := by
  refine sequential_finish fun u hu => ?_
  obtain ⟨⟨v, t⟩, hfp, hu⟩ := (Res.bind_ok _ _ _).mp hu
  obtain ⟨⟨w, t'⟩, hrets, hok⟩ := (Res.bind_ok _ _ _).mp hu
  cases hok
  exact ((keeps_memRead hfp).trans (keeps_memRead hrets)).trans
    ((t'.keeps_setSp _).trans ((State.keeps_setP _ _ _).trans (State.keeps_of_frame rfl)))

/-! ### Moves, loops, events -/

theorem sequential_regMove (dst src : Reg) : Sequential (execRegMove dst src s) s 2 := by
  refine sequential_ite (sequential_finish fun u hu => ?_) (sequential_refused _)
  obtain ⟨_, hdst, hu⟩ := (Res.bind_ok _ _ _).mp hu
  obtain ⟨_, -, hu⟩ := (Res.bind_ok _ _ _).mp hu
  obtain ⟨⟨v, t⟩, hread, hwrite⟩ := (Res.bind_ok _ _ _).mp hu
  have hread := keeps_readReg hread
  exact hread.trans (keeps_writeReg ((mayName_congr hread.mode dst).trans (checkPrivilege_ok hdst)) hwrite)

theorem sequential_testset (pn : PReg) : Sequential (execTestset pn s) s 2 := by
  refine sequential_ite (sequential_refused _) (sequential_ite (sequential_finish fun u hu => ?_) (sequential_refused _))
  obtain ⟨⟨v, t⟩, hread, hwrite⟩ := (Res.bind_ok _ _ _).mp hu
  exact (keeps_memRead hread).trans ((State.keeps_of_frame rfl).trans (keeps_memWrite hwrite))

/-- A loop address counted from an even pc is even (42 R331). -/
theorem even_setup {a : Word} (o : Word) (h : a.toNat % 2 = 0) : (a + o <<< 1).toNat % 2 = 0 := by
  rw [BitVec.toNat_add, BitVec.toNat_shiftLeft, Nat.shiftLeft_eq]
  omega

theorem sequential_loopSetup (c : LoopNo) (so : BitVec 4) (eo : BitVec 10) (count : Option Word) :
    Sequential (loopSetup s c so eo count) s 4 := by
  refine sequential_ite (sequential_refused _) ?_
  have haddr : s.Keeps (s.setLoopAddresses c so eo) :=
    s.keeps_setLoop c _ fun hp _ => ⟨even_setup _ hp, even_setup _ hp⟩
  cases count with
  | none => exact haddr.sequential
  | some n =>
    refine State.Keeps.sequential (haddr.trans ?_)
    exact State.keeps_setLoop _ c _ fun _ => id

theorem sequential_raise (n : BitVec 4) : Sequential (execRaise n s) s 2 := by
  refine sequential_supervisorOnly fun hm => sequential_notAtLoopEnd ?_
  split
  case isTrue => exact sequential_refused _
  case isFalse h1 =>
    split
    case isTrue => exact sequential_refused _
    case isFalse h =>
      have hn : n.toNat = 2 ∨ (5 ≤ n.toNat ∧ n.toNat ≤ 15) := by revert n; decide
      refine State.Keeps.sequential ?_
      exact State.keeps_of_supervisor hm rfl rfl rfl rfl fun hi =>
        { hi with ilat_fixed := setBit_ilat_fixed hn hi.ilat_fixed }

theorem sequential_cli (rd : DReg) : Sequential (execCli rd s) s 2 := by
  refine sequential_supervisorOnly fun hm => sequential_notAtLoopEnd (State.Keeps.sequential ?_)
  exact State.keeps_of_supervisor hm rfl rfl rfl rfl fun hi => { hi with imask_fixed := imaskOf_fixed _ }

theorem sequential_sti (rd : DReg) : Sequential (execSti rd s) s 2 := by
  refine sequential_supervisorOnly fun hm => sequential_notAtLoopEnd (sequential_finish fun u hu => ?_)
  obtain ⟨-, rfl⟩ := checkReserved_ok hu
  exact State.keeps_of_supervisor hm rfl rfl rfl rfl fun hi => { hi with imask_fixed := imaskOf_fixed _ }

theorem sequential_idle : Sequential (execIdle s) s 2 := by
  refine sequential_supervisorOnly fun hm => sequential_notAtLoopEnd (State.Keeps.sequential ?_)
  exact State.keeps_of_supervisor hm rfl rfl rfl rfl fun hi => { hi with }

end

/-- Every instruction but the control transfers, the event returns and EXCPT. -/
theorem exec_sequential (i : Instr) (s : State) (h : leavesSequence i = false) :
    Sequential (exec i s) s (2 * (encode i).length) := by
  by_cases hon : onlyGoesOn i = true
  · exact (exec_onlyGoesOn i s hon).sequential
  cases i
  case emuexcpt => exact sequential_refused _
  case idle => exact sequential_idle
  case cli => exact sequential_cli _
  case sti => exact sequential_sti _
  case raise => exact sequential_raise _
  case testset => exact sequential_testset _
  case popReg => exact sequential_popReg _
  case pushReg => exact sequential_pushReg _
  case regMove => exact sequential_regMove _ _
  case popMultD => exact sequential_popMultiple _
  case popMultDP | popMultP => exact sequential_numberedOnly _ (sequential_popMultiple _)
  case pushMultD => exact sequential_pushMultiple _
  case pushMultDP | pushMultP => exact sequential_numberedOnly _ (sequential_pushMultiple _)
  case link => exact sequential_link _
  case unlink => exact sequential_unlink
  case lsetup | lsetupP | lsetupPHalf => exact sequential_loopSetup _ _ _ _
  case addIM | subIM | addI2 | subI2 | addI4 | subI4 => exact sequential_modifyIndex _ _
  case ldIInc | ldILoInc | ldIHiInc | ldIDec | ldILoDec | ldIHiDec | ldIInd | ldILoInd | ldIHiInd | ldIMod =>
    exact sequential_loadI _ _ _ _ _
  case stIInc | stILoInc | stIHiInc | stIDec | stILoDec | stIHiDec | stIInd | stILoInd | stIHiInd | stIMod =>
    exact sequential_storeI _ _ _ _
  case ldPmod | ldPmodHalfZ | ldPmodHalfX =>
    exact sequential_ite (sequential_refused _) (sequential_loadPmod _ _ _ _ fun v _ => _)
  case ldPmodLo => exact sequential_loadPmod _ _ _ _ fun v t => withLow (t.getD _) (lowHalf v)
  case ldPmodHi => exact sequential_loadPmod _ _ _ _ fun v t => withHigh (t.getD _) (lowHalf v)
  case stPmod => exact sequential_ite (sequential_refused _) (sequential_storePmod _ _ _ _)
  case stPmodLo | stPmodHi => exact sequential_storePmod _ _ _ _
  case ldPInc | ldPDec => exact sequential_loadPMoving _ _ _
  case ldPInd => exact sequential_loadPAt _ _
  case ldDInc | ldHalfZInc | ldHalfXInc | ldByteZInc | ldByteXInc | ldDDec | ldHalfZDec | ldHalfXDec | ldByteZDec
    | ldByteXDec | ldDInd | ldHalfZInd | ldHalfXInd | ldByteZInd | ldByteXInd => exact sequential_loadD _ _ _ _ _
  case stDInc | stPInc | stHalfInc | stByteInc | stDDec | stPDec | stHalfDec | stByteDec | stDInd | stPInd | stHalfInd
    | stByteInd => exact sequential_storeMoving _ _ _ _
  case ldDOff | ldHalfZOff | ldHalfXOff | ldDFp | ldDIdx | ldHalfZIdx | ldHalfXIdx | ldByteZIdx | ldByteXIdx =>
    exact sequential_loadDAt _ _ _ _
  case ldPOff | ldPFp | ldPIdx => exact sequential_loadPAt _ _
  case stDOff | stHalfOff | stPOff | stDFp | stPFp | stDIdx | stPIdx | stHalfIdx | stByteIdx =>
    exact sequential_storeAt _ _ _
  case jumpShort | jumpLong | jumpReg | jumpPcReg | jumpIfCc | jumpIfNotCc | callLong | callReg | callPcReg | rts | rti
    | rtx | rtn | rte | excpt => cases h
  all_goals exact absurd rfl hon

/-! ### Control transfers and event returns -/

/-- A jump or a call changes pc and RETS alone. -/
def State.Jumped (s t : State) : Prop := t = { s with pc := t.pc, rets := t.rets }

/-- An event return clears bits of IPEND and changes pc; RTE returns from Emulation mode, the others from Supervisor mode. -/
def State.Returned (s t : State) (i : Instr) : Prop :=
  (∃ w, t = { s with ipend := s.ipend &&& w, pc := t.pc }) ∧
    ((s.mode = .supervisor ∧ (i = .rti ∨ i = .rtx ∨ i = .rtn)) ∨ (s.mode = .emulation ∧ i = .rte))

section

variable {s t : State}

theorem jumped_of_jumpTo {target : Word} (h : notAtLoopEnd s (s.jumpTo target) = .next t) : s.Jumped t := by
  cases (notAtLoopEnd_next s t _ h).2
  rfl

theorem jumped_of_callTo {len target : Word} (h : callTo s len target = .next t) : s.Jumped t := by
  cases (notAtLoopEnd_next s t _ h).2
  rfl

/-- A conditional jump that is not taken is a sequential instruction (42 R305). -/
theorem jumpIf_next {taken : Bool} {o : BitVec 10} (h : jumpIf s taken o = .next t) :
    s.Jumped t ∨ retire 2 s = .next t := by
  obtain ⟨-, h⟩ := notAtLoopEnd_next s t _ h
  cases taken with
  | true => cases h; exact .inl rfl
  | false => exact .inr h

/-- While an event below Emulation is in service and the mode is not User mode, it is Supervisor mode. -/
theorem supervisor_of_currentLevel (hm : s.mode ≠ .user) (hc : currentLevel s.ipend ≠ 0) : s.mode = .supervisor := by
  cases h : s.mode with
  | user => exact absurd h hm
  | supervisor => rfl
  | emulation =>
    have h0 : bit s.ipend 0 = true := (modeOf_eq_iff s.ipend).1.mp h
    exact absurd (by simp [currentLevel, levels, h0]) hc

/-- A return that is allowed at the level in service only. -/
theorem returned_of_level {i : Instr} {c : Prop} [Decidable c] {ra w : Word} (hi : i = .rti ∨ i = .rtx ∨ i = .rtn)
    (hc : c → currentLevel s.ipend ≠ 0)
    (h : supervisorOnly s (notAtLoopEnd s
      (if c then eventReturn s ra (s.ipend &&& w) else .refused .returnLevel)) = .next t) :
    (∃ c, takeException s c = .next t) ∨ s.Returned t i := by
  obtain ⟨-, h⟩ | ⟨hm, h⟩ := supervisorOnly_next s t _ h
  · exact .inl ⟨_, h⟩
  · obtain ⟨-, h⟩ := notAtLoopEnd_next s t _ h
    split at h
    case isTrue hlevel =>
      obtain ⟨-, rfl⟩ := eventReturn_next s t _ _ h
      exact .inr ⟨⟨w, rfl⟩, .inl ⟨supervisor_of_currentLevel hm (hc hlevel), hi⟩⟩
    case isFalse => cases h

theorem rti_next (h : exec .rti s = .next t) : (∃ c, takeException s c = .next t) ∨ s.Returned t .rti := by
  refine returned_of_level (c := currentLevel s.ipend = 1 ∨ (5 ≤ currentLevel s.ipend ∧ currentLevel s.ipend ≤ 15))
    (ra := s.reti) (w := ~~~(1#32 <<< currentLevel s.ipend) &&& ~~~(1#32 <<< 4)) (.inl rfl) (by omega) ?_
  rw [← BitVec.and_assoc]
  exact h

theorem rtx_next (h : exec .rtx s = .next t) : (∃ c, takeException s c = .next t) ∨ s.Returned t .rtx :=
  returned_of_level (.inr (.inl rfl)) (by omega) h

theorem rtn_next (h : exec .rtn s = .next t) : (∃ c, takeException s c = .next t) ∨ s.Returned t .rtn :=
  returned_of_level (.inr (.inr rfl)) (by omega) h

theorem rte_next (h : exec .rte s = .next t) : (∃ c, takeException s c = .next t) ∨ s.Returned t .rte := by
  obtain ⟨-, h⟩ | ⟨-, h⟩ := supervisorOnly_next s t _ h
  · exact .inl ⟨_, h⟩
  · obtain ⟨-, h⟩ := notAtLoopEnd_next s t _ h
    split at h
    case h_1 hm =>
      obtain ⟨-, rfl⟩ := eventReturn_next s t _ _ h
      exact .inr ⟨⟨_, rfl⟩, .inr ⟨hm, rfl⟩⟩
    all_goals cases h

end

/-- What every instruction that answers a next state has done. -/
inductive InstrOutcome (i : Instr) (s t : State) : Prop where
  | exception (c : Cause) (h : takeException s c = .next t)
  | wentOn (u : State) (hu : s.Keeps u) (h : retire (2 * (encode i).length) u = .next t)
  | jumped (hi : leavesSequence i = true) (h : s.Jumped t)
  | returned (hi : leavesSequence i = true) (h : s.Returned t i)

theorem exec_instrOutcome (i : Instr) (s t : State) (h : exec i s = .next t) : InstrOutcome i s t := by
  cases hi : leavesSequence i with
  | false =>
    obtain ⟨c, hc⟩ | ⟨u, hu, hr⟩ := exec_sequential i s hi t h
    · exact .exception c hc
    · exact .wentOn u hu hr
  | true =>
    have hreturn : (∃ c, takeException s c = .next t) ∨ s.Returned t i → InstrOutcome i s t :=
      fun h => h.elim (fun ⟨c, hc⟩ => .exception c hc) (.returned hi)
    cases i
    case jumpShort | jumpLong | jumpReg | jumpPcReg | rts => exact .jumped hi (jumped_of_jumpTo h)
    case callLong | callReg | callPcReg => exact .jumped hi (jumped_of_callTo h)
    case jumpIfCc | jumpIfNotCc => exact (jumpIf_next h).elim (.jumped hi) fun hr => .wentOn s (.refl s) hr
    case excpt => exact .exception _ (notAtLoopEnd_next s t _ h).2
    case rti => exact hreturn (rti_next h)
    case rtx => exact hreturn (rtx_next h)
    case rtn => exact hreturn (rtn_next h)
    case rte => exact hreturn (rte_next h)
    all_goals cases hi

end Sys2Proof.Machine
end

section
/-! PROOF. The statements about every instruction and every step: code, good states, User mode, the modes, the end of the
address space. Each is read off from `exec_instrOutcome`. -/

namespace Sys2Proof.Machine

/-! ### What the loop check, an exception and a transfer keep -/

theorem retire_next_loopCheck {len : Nat} {u t : State} (h : retire len u = .next t) :
    ∃ seq, t = u.loopCheck u.pc seq := ⟨_, (retire_next u t len h).2⟩

theorem takeException_frame {s t : State} {c : Cause} (h : takeException s c = .next t) :
    t.fetched = s.fetched ∧ t.mem = s.mem := by
  obtain ⟨-, rfl⟩ := takeException_next s t c h
  exact ⟨s.recordFault_fetched c, s.recordFault_mem c⟩

/-! ### Code (20 R143) -/

/-- Settles O58: no outcome but a store writes memory, and a store goes to no byte that was fetched. -/
theorem codeIsImmutable : Obligations.CodeIsImmutable := by
  intro i s t h
  cases exec_instrOutcome i s t h with
  | exception c hc =>
    obtain ⟨hf, hm⟩ := takeException_frame hc
    exact ⟨hf, fun x _ => by rw [State.byteAt, State.byteAt, hm]⟩
  | wentOn u hu hr =>
    obtain ⟨seq, rfl⟩ := retire_next_loopCheck hr
    refine ⟨(u.loopCheck_fetched _ _).trans hu.fetched, fun x hx => ?_⟩
    rw [State.byteAt, u.loopCheck_mem]
    exact hu.code x hx
  | jumped _ hj =>
    rw [hj]
    exact ⟨rfl, fun _ _ => rfl⟩
  | returned _ hret =>
    obtain ⟨⟨w, hw⟩, -⟩ := hret
    rw [hw]
    exact ⟨rfl, fun _ _ => rfl⟩

/-! ### User mode (60 R424, R426) -/

/-- Settles O59: outside exceptions every effect keeps what is Supervisor mode's, and event returns do not run. -/
theorem userIsolation : Obligations.UserIsolation := by
  intro i s t hm h
  cases exec_instrOutcome i s t h with
  | exception c hc => exact .inr (takeException_trapsTo s t c hc)
  | wentOn u hu hr =>
    obtain ⟨seq, rfl⟩ := retire_next_loopCheck hr
    exact .inl ((hu.supervisor hm).trans (by simp [State.SameSupervisor]))
  | jumped _ hj =>
    rw [hj]
    exact .inl (.refl s)
  | returned _ hret =>
    obtain ⟨-, ⟨hsup, -⟩ | ⟨hemu, -⟩⟩ := hret
    · simp [hsup] at hm
    · simp [hemu] at hm

/-! ### The modes (60 R423) -/

theorem getLsbD_zero_of_canTrap {s : State} (h : s.CanTrap) : s.ipend.getLsbD 0 = false := by
  simpa using congrArg (fun w : Word => w.getLsbD 0) (show s.ipend &&& 0xF#32 = 0#32 from h)

/-- An exception is taken into Supervisor mode: IPEND[3] is set and IPEND[0] is 0. -/
theorem takeException_mode {s t : State} {c : Cause} (h : takeException s c = .next t) :
    s.mode ≠ .emulation ∧ t.mode = .supervisor := by
  obtain ⟨hcan, rfl⟩ := takeException_next s t c h
  have h0 := getLsbD_zero_of_canTrap hcan
  obtain ⟨hemu, -, -⟩ := modeOf_eq_iff s.ipend
  refine ⟨fun he => absurd (hemu.mp he) (by rw [h0]; decide), ?_⟩
  have hip : ((s.recordFault c).trapped c.code (s.exceptionReturn c)).ipend = s.ipend ||| 8#32 := by
    rw [← s.recordFault_ipend c]; rfl
  rw [State.mode, hip, (modeOf_eq_iff _).2.1, Ne, and_eventMask_eq_zero_iff]
  refine ⟨by rw [BitVec.getLsbD_or, h0]; rfl, fun hall => ?_⟩
  simpa using hall 3 (by decide) (by decide) (by decide)

theorem State.Jumped.mode {s t : State} (h : s.Jumped t) : t.mode = s.mode := by rw [h]; rfl

/-- A return from Supervisor mode does not enter Emulation mode: it sets no bit of IPEND. -/
theorem mode_ne_emulation_of_cleared {s : State} (h : s.mode = .supervisor) (w : Word) :
    modeOf (s.ipend &&& w) ≠ .emulation := by
  intro he
  have h0 : s.ipend.getLsbD 0 = false := ((modeOf_eq_iff s.ipend).2.1.mp h).1
  have hbit := (modeOf_eq_iff _).1.mp he
  rw [BitVec.getLsbD_and, h0, Bool.false_and] at hbit
  cases hbit

theorem mode_eq_user {m : Mode} (hs : m ≠ .supervisor) (he : m ≠ .emulation) : m = .user := by
  cases m
  · exact absurd rfl he
  · exact absurd rfl hs
  · rfl

/-- Settles O60: only the event returns and the exceptions change the mode. -/
theorem modeTransitions : Obligations.ModeTransitions := by
  intro i s t h
  have hsame : t.mode = s.mode →
      (s.mode = .supervisor → t.mode ≠ .supervisor → t.mode = .user ∧ (i = .rti ∨ i = .rtx ∨ i = .rtn)) ∧
      (s.mode = .emulation → t.mode ≠ .emulation → i = .rte) ∧ (s.mode = .user → t.mode ≠ .user → s.TrapsTo t) :=
    fun e => ⟨fun hs ht => absurd (e.trans hs) ht, fun hs ht => absurd (e.trans hs) ht,
      fun hs ht => absurd (e.trans hs) ht⟩
  cases exec_instrOutcome i s t h with
  | exception c hc =>
    obtain ⟨hemu, hsup⟩ := takeException_mode hc
    exact ⟨fun _ ht => absurd hsup ht, fun hs _ => absurd hs hemu, fun _ _ => takeException_trapsTo s t c hc⟩
  | wentOn u hu hr =>
    obtain ⟨seq, rfl⟩ := retire_next_loopCheck hr
    exact hsame ((State.mode_congr (u.loopCheck_ipend _ _)).trans hu.mode)
  | jumped _ hj => exact hsame hj.mode
  | returned _ hret =>
    obtain ⟨⟨w, hw⟩, ⟨hsup, hi⟩ | ⟨hemu, hi⟩⟩ := hret
    · have hne : t.mode ≠ .emulation := by rw [hw]; exact mode_ne_emulation_of_cleared hsup w
      simp only [hsup]
      exact ⟨fun _ ht => ⟨mode_eq_user ht hne, hi⟩, nofun, nofun⟩
    · simp only [hemu]
      exact ⟨nofun, fun _ _ => hi, nofun⟩

/-! ### The end of the address space (10 R65) -/

/-- An instruction that would pass the end of the address space does not retire. -/
theorem retire_wraps {s u : State} {len : Nat} (h : ¬ s.Fits len) (hp : u.pc = s.pc) : retire len u = .refused .pcWrap := by
  unfold State.Fits at h
  rw [retire, hp, if_pos (by omega)]

/-- Settles O12: what goes on retires, and at the end of the address space nothing does. -/
theorem endOfAddressSpace : Obligations.EndOfAddressSpace := by
  intro i s hfits
  refine ⟨fun hi t h => ?next, fun hi => ?onlyGoesOn, fun hend bp o hcond => ?untaken⟩
  case next =>
    obtain ⟨c, hc⟩ | ⟨u, hu, hr⟩ := exec_sequential i s hi t h
    · exact takeException_trapsTo s t c hc
    · rw [retire_wraps hfits hu.pc] at hr
      cases hr
  case onlyGoesOn =>
    obtain ⟨u, hu, hexec⟩ := exec_onlyGoesOn i s hi
    rw [hexec, retire_wraps hfits hu.pc]
  case untaken =>
    obtain ⟨rfl, hcc⟩ | ⟨rfl, hcc⟩ := hcond
    · have huntaken : exec (.jumpIfCc bp o) s = notAtLoopEnd s (if s.astat.cc then _ else retire 2 s) := rfl
      rw [huntaken, notAtLoopEnd_pass hend, hcc, if_neg (by decide)]
      exact retire_wraps hfits rfl
    · have huntaken : exec (.jumpIfNotCc bp o) s = notAtLoopEnd s (if !s.astat.cc then _ else retire 2 s) := rfl
      rw [huntaken, notAtLoopEnd_pass hend, hcc, if_neg (by decide)]
      exact retire_wraps hfits rfl

/-! ### Good states -/

/-- The loop check changes the counters and pc, of which the invariant says nothing. -/
theorem State.Inv.loopCheck {u : State} (h : u.Inv) (a seq : Word) : (u.loopCheck a seq).Inv := by
  have hcheck : ∀ l : LoopRegs, (l.check a).1.lt = l.lt ∧ (l.check a).1.lb = l.lb := fun l => by
    rcases l.check_cases a with ⟨-, e⟩ | ⟨-, -, e⟩ | ⟨-, -, e⟩ <;> rw [e] <;> exact ⟨rfl, rfl⟩
  have heven : ∀ (l l' : LoopRegs) (o : Option Word), l.check a = (l', o) → l.Even → l'.Even := fun l l' o e hl => by
    obtain ⟨ht, hb⟩ := hcheck l
    rw [e] at ht hb
    rw [LoopRegs.Even, ht, hb]
    exact hl
  unfold State.loopCheck
  split
  case h_1 l1 top h1 => exact { h with loop1_even := heven _ _ _ h1 h.loop1_even }
  case h_2 l1 h1 =>
    have e1 := heven _ _ _ h1 h.loop1_even
    split
    case h_1 l0 top h0 => exact { h with loop1_even := e1, loop0_even := heven _ _ _ h0 h.loop0_even }
    case h_2 l0 h0 => exact { h with loop1_even := e1, loop0_even := heven _ _ _ h0 h.loop0_even }

theorem withExcause_fixed {w : Word} (c : BitVec 6) (h : w &&& 0xFFF81FC0#32 = 0#32) :
    withExcause w c &&& 0xFFF81FC0#32 = 0#32 := by
  rw [withExcause_eq]
  refine (or_and_of_apart ?_ (and_and_eq_zero _ h))
  revert c
  decide

/-- Event entry sets IPEND[4] and the bit of an event above emulation, and clears a bit of ILAT (60 R440). -/
theorem State.Inv.enterEvent {s : State} (h : s.Inv) (k : Fin 16) (hk : 1 ≤ k.val) (ra : Word) :
    (s.enterEvent k ra).Inv := by
  have hip : (if 5 ≤ k.val then setBit s.ipend 4 else s.ipend) &&& 0xFFFF0001#32 = 0#32 := by
    split
    · exact setBit_ipend_fixed (by decide) (by decide) h.ipend_fixed
    · exact h.ipend_fixed
  exact { h with
    ilat_fixed := and_and_eq_zero _ h.ilat_fixed
    ipend_fixed := setBit_ipend_fixed hk (by omega) hip }

theorem State.Inv.recordFault {s : State} (h : s.Inv) (c : Cause) : (s.recordFault c).Inv := by
  cases c <;> exact { h with }

theorem State.Inv.takeException {s t : State} {c : Cause} (h : s.Inv)
    (ht : Machine.takeException s c = .next t) : t.Inv := by
  unfold Machine.takeException at ht
  split at ht
  case isTrue =>
    cases ht
    exact { (h.recordFault c).enterEvent 3 (by decide) (s.exceptionReturn c) with
      seqstat_fixed := withExcause_fixed c.code h.seqstat_fixed }
  case isFalse => cases ht

/-- Every instruction at an even address leads from a good state to a good state. -/
theorem State.Inv.exec {i : Instr} {s t : State} (h : s.Inv) (hp : s.pc.toNat % 2 = 0)
    (ht : Machine.exec i s = .next t) : t.Inv := by
  cases exec_instrOutcome i s t ht with
  | exception c hc => exact h.takeException hc
  | wentOn u hu hr =>
    obtain ⟨seq, rfl⟩ := retire_next_loopCheck hr
    exact (hu.inv hp h).loopCheck _ _
  | jumped _ hj =>
    rw [hj]
    exact { h with }
  | returned _ hret =>
    obtain ⟨⟨w, hw⟩, -⟩ := hret
    rw [hw]
    exact { h with ipend_fixed := and_and_eq_zero w h.ipend_fixed }

/-- The boundary latches events 2 and 6 and sets TINT (60 R442, R461). -/
theorem State.Inv.boundary {s : State} (h : s.Inv) : s.boundary.Inv := by
  cases hs : s.arrivals with
  | nil => rwa [s.boundary_nil hs]
  | cons e rest =>
    rw [s.boundary_cons e rest hs]
    have hnmi : (s.nmiPin e).ilat &&& 0xFFFF001B#32 = 0#32 := by
      show (if e.nmi then setBit s.ilat 2 else s.ilat) &&& _ = _
      split
      · exact setBit_ilat_fixed (.inl rfl) h.ilat_fixed
      · exact h.ilat_fixed
    refine { h with ilat_fixed := ?ilat, tcntl_fixed := ?tcntl }
    case ilat =>
      show (if (e.coreTimer && s.timer.runs) = true then setBit (s.nmiPin e).ilat 6 else (s.nmiPin e).ilat) &&& _ = _
      split
      · exact setBit_ilat_fixed (.inr (by decide)) hnmi
      · exact hnmi
    case tcntl =>
      show (if (e.coreTimer && s.timer.runs) = true then { s.timer with tcntl := setBit s.timer.tcntl 3 }
        else s.timer).tcntl &&& _ = _
      split
      · exact or_and_of_apart (by decide) h.tcntl_fixed
      · exact h.tcntl_fixed

/-! ### The fetch -/

/-- Memory that can be fetched lies below the MMRs. -/
theorem fetchBar_none_lt {p : Platform} {x : Nat} (h : fetchBar p x = none) : x < 0xFFC00000 := by
  unfold fetchBar Platform.populates at h
  rcases regionOf_cases x with g | g | g | g | g | g | g | g | g | g | g | g | g <;> first | omega | simp [g] at h

/-- A parcel is fetched from an even address and from bytes the core has not stored to (20 R133, R143). -/
theorem fetchParcel_ok {s : State} {a : Word} {w : Parcel} (h : fetchParcel s a = .ok w) :
    a.toNat % 2 = 0 ∧ a.toNat < 0xFFC00000 ∧ ∀ x ∈ span a.toNat 2, x ∉ s.stored := by
  unfold fetchParcel at h
  split at h
  · cases h
  · rename_i heven
    split at h
    · cases h
    · rename_i hbar
      split at h
      · cases h
      · rename_i hstored
        rw [spanBar_none] at hbar
        exact ⟨by simpa [bit_eq_decide] using heven, fetchBar_none_lt (hbar 0 (by decide)), by simpa using hstored⟩

/-- An instruction is fetched from an even pc and from bytes the core has not stored to. -/
theorem fetchInstr_ok {s : State} {i : Instr} {len : Nat} (h : fetchInstr s = .ok (i, len)) :
    s.pc.toNat % 2 = 0 ∧ ∀ x ∈ span s.pc.toNat len, x ∉ s.stored := by
  unfold fetchInstr at h
  obtain ⟨hw0, h0, h⟩ := (Res.bind_ok _ _ _).mp h
  obtain ⟨heven, hlt, hfirst⟩ := fetchParcel_ok h0
  refine ⟨heven, ?_⟩
  split at h
  case h_1 =>
    obtain ⟨j, -, hok⟩ := (Res.bind_ok _ _ _).mp h
    cases hok
    exact hfirst
  case h_2 =>
    obtain ⟨hw1, h1, h⟩ := (Res.bind_ok _ _ _).mp h
    obtain ⟨j, -, hok⟩ := (Res.bind_ok _ _ _).mp h
    cases hok
    obtain ⟨-, -, hsecond⟩ := fetchParcel_ok h1
    have hnext : (s.pc + 2#32).toNat = s.pc.toNat + 2 := by bv_omega
    rw [hnext] at hsecond
    intro x hx
    rw [mem_span] at hx
    by_cases hx2 : x < s.pc.toNat + 2
    · exact hfirst x ((mem_span _ _ _).mpr ⟨hx.1, hx2⟩)
    · exact hsecond x ((mem_span _ _ _).mpr ⟨by omega, by omega⟩)
  case h_3 => cases h

/-- Noting a fetch keeps code apart from stored data. -/
theorem State.Inv.noteFetch {s : State} {len : Nat} (h : s.Inv) (hapart : ∀ x ∈ span s.pc.toNat len, x ∉ s.stored) :
    (s.noteFetch len).Inv :=
  { h with
    fetched_canonical := AddrSet.insertAll_wf _ _ h.fetched_canonical
    code_apart := fun x hx => ((AddrSet.mem_insertAll _ _ _).mp hx).elim (hapart x) (h.code_apart x) }

theorem State.Inv.runInstr {s t : State} (h : s.Inv) (ht : s.runInstr = .next t) : t.Inv := by
  unfold State.runInstr at ht
  split at ht
  case h_1 i len hfetch =>
    obtain ⟨heven, hapart⟩ := fetchInstr_ok hfetch
    exact (h.noteFetch hapart).exec heven ht
  case h_2 => exact h.takeException ht
  all_goals cases ht

/-- The event check accepts no event below 2 (60 R441). -/
theorem acceptedEvent_pos {s : State} {k : Fin 16} (h : s.acceptedEvent = some k) : 1 ≤ k.val := by
  have hall : ∀ j ∈ latchable, 1 ≤ j.val := by decide
  exact hall k (List.mem_of_find?_eq_some h)

/-- Settles O57: the boundary, event entry, the fetch and every instruction keep the invariant. -/
theorem stepKeepsGoodStates : Obligations.StepKeepsGoodStates := by
  intro s t h ht
  have hb := h.boundary
  unfold step at ht
  obtain ⟨k, hk, hturn⟩ | ⟨-, -, hturn⟩ | ⟨-, -, hturn⟩ := s.boundary.coreTurn_cases
  · rw [hturn] at ht
    cases ht
    exact hb.enterEvent k (acceptedEvent_pos hk) _
  · rw [hturn] at ht
    cases ht
    exact hb
  · exact hb.runInstr (hturn ▸ ht)

/-- Settles O56, by evaluation of the reset state. -/
theorem resetIsGood : Obligations.ResetIsGood where
  mem_canonical := rfl
  fetched_canonical := rfl
  stored_canonical := rfl
  code_apart := nofun
  imask_fixed := rfl
  ipend_fixed := rfl
  ilat_fixed := rfl
  tcntl_fixed := rfl
  seqstat_fixed := rfl
  syscfg_fixed := .inl rfl
  loop0_even := ⟨rfl, rfl⟩
  loop1_even := ⟨rfl, rfl⟩

end Sys2Proof.Machine
end

section
/-! PROOF. The encoding (30): the fields of each format's words, and from them that the decoder reads back every
  well-formed
instruction (30 R176 to R204). -/

namespace Sys2Proof

/-! ### Fields of a word that is written as a concatenation -/

/-- The lowest field. -/
theorem field_lowest {a n : Nat} (x : BitVec a) (f : BitVec n) : (x ++ f).extractLsb' 0 n = f := by
  apply BitVec.eq_of_getLsbD_eq
  intro k hk
  simp [BitVec.getLsbD_append, hk]

/-- A field stands higher by the width of what is appended below it. -/
theorem field_above {a b n lo : Nat} {x : BitVec a} {y : BitVec b} {f : BitVec n} (h : x.extractLsb' lo n = f) :
    (x ++ y).extractLsb' (lo + b) n = f := by
  rw [← h]
  apply BitVec.eq_of_getLsbD_eq
  intro k hk
  simp only [BitVec.getLsbD_extractLsb', BitVec.getLsbD_append, show ¬ lo + b + k < b by omega, if_false,
    show lo + b + k - b = lo + k by omega]

/-- The two parts that a 24-bit offset is cut into make it again (30 R202). -/
theorem halves_append (o : BitVec 24) : o.extractLsb' 16 8 ++ o.extractLsb' 0 16 = o := by
  apply BitVec.eq_of_getLsbD_eq
  intro k hk
  simp only [BitVec.getLsbD_append, BitVec.getLsbD_extractLsb']
  split
  · simp [*]
  · simp [show k - 16 < 8 by omega, show 16 + (k - 16) = k by omega]

/-! ### The codes of registers and flags (30 R174, 10 R73) -/

@[simp] theorem DReg.ofCode_code (r : DReg) : DReg.ofCode r.code = r := by cases r <;> rfl
@[simp] theorem PReg.ofCode_code (r : PReg) : PReg.ofCode r.code = r := by cases r <;> rfl
@[simp] theorem Quad.ofCode_code (n : Quad) : Quad.ofCode n.code = n := by cases n <;> rfl
@[simp] theorem LoopNo.ofCode_code (k : LoopNo) : LoopNo.ofCode k.code = k := by cases k <;> rfl
@[simp] theorem AstatBit.ofCode_code (b : AstatBit) : AstatBit.ofCode b.code = some b := by cases b <;> rfl
@[simp] theorem DPReg.ofCode_num (r : DPReg) : DPReg.ofCode r.sel r.num = r := by
  cases r with
  | d r => exact congrArg DPReg.d r.ofCode_code
  | p r => exact congrArg DPReg.p r.ofCode_code
@[simp] theorem GenReg.ofCode_num (g : GenReg) : GenReg.ofCode g.grp g.num = g := by
  cases g with
  | d r => exact congrArg GenReg.d r.ofCode_code
  | p r => exact congrArg GenReg.p r.ofCode_code
  | i n | m n | b n | l n => cases n <;> rfl
@[simp] theorem Reg.ofCode_num (r : Reg) : Reg.ofCode r.grp r.num = some r := by
  cases r with
  | gen g =>
    cases g with
    | d r | p r | i r | m r | b r | l r => cases r <;> rfl
  | lc k | lt k | lb k => cases k <;> rfl
  | _ => rfl
@[simp] theorem bitField_eq_one (b : Bool) : decide (bitField b = 1#1) = b := by cases b <;> rfl

/-! ### Encodings that decode

`Decodes ps i` says of the parcels of an instruction what the statement says; the formats below give the fields of their
words once. -/

/-- The parcels are read as the instruction, whatever follows them. -/
def Decodes (ps : List Parcel) (i : Instr) : Prop := ∀ rest, decodeParcels (ps ++ rest) = (.instr i, rest)

theorem decodes_two {w : Parcel} {i : Instr} (hlen : Laws.EncodedLength.Matches [w]) (h : decode16 w = .instr i) :
    Decodes [w] i := by
  intro rest
  have hlen : lengthOf w = .two := hlen
  simp only [List.singleton_append, decodeParcels, hlen, h]

theorem decodes_four {w x : Parcel} {i : Instr} (hlen : Laws.EncodedLength.Matches [w, x])
    (h : decode32 w x = .instr i) : Decodes [w, x] i := by
  intro rest
  have hlen : lengthOf w = .four := hlen
  simp only [List.cons_append, List.nil_append, decodeParcels, hlen, h]

theorem Decoded.ofTerm_wf {i : Instr} (h : i.wf = true) : Decoded.ofTerm i = .instr i := if_pos h

/-! ### The 16-bit formats -/

open Laws.EncodedLength

/-- The bits of a field. -/
theorem fld_extract {w : Parcel} {lo n k m : Nat} (h : k + m ≤ n) : (fld w lo n).extractLsb' k m = fld w (lo + k) m
    := by
  apply BitVec.eq_of_getLsbD_eq
  intro b hb
  simp only [fld, BitVec.getLsbD_extractLsb', show k + b < n by omega, decide_true, Bool.true_and, Nat.add_assoc]

/-- A field of a field whose bits are given. -/
theorem fld_within {w : Parcel} {lo n k m : Nat} {c : BitVec n} (h : fld w lo n = c) (hk : k + m ≤ n) :
    fld w (lo + k) m = c.extractLsb' k m := by rw [← fld_extract hk, h]

/-! Which bits choose the format. -/

theorem decode16_progCtrl {w : Parcel} (h : fld w 8 8 = 0x00#8) : decode16 w = decodeProgCtrl w := by
  rw [decode16, fld_within (k := 4) h (by decide)]
  show decodeGroup0 w = _
  rw [decodeGroup0, fld_within (k := 0) h (by decide)]; rfl

theorem decode16_pushPopReg {w : Parcel} (h : fld w 8 8 = 0x01#8) : decode16 w = decodePushPopReg w := by
  rw [decode16, fld_within (k := 4) h (by decide)]
  show decodeGroup0 w = _
  rw [decodeGroup0, fld_within (k := 0) h (by decide)]; rfl

theorem decode16_ccRegCache {w : Parcel} (h : fld w 8 8 = 0x02#8) : decode16 w = decodeCcRegCache w := by
  rw [decode16, fld_within (k := 4) h (by decide)]
  show decodeGroup0 w = _
  rw [decodeGroup0, fld_within (k := 0) h (by decide)]; rfl

theorem decode16_cc2stat {w : Parcel} (h : fld w 8 8 = 0x03#8) : decode16 w = decodeCc2stat w := by
  rw [decode16, fld_within (k := 4) h (by decide)]
  show decodeGroup0 w = _
  rw [decodeGroup0, fld_within (k := 0) h (by decide)]; rfl

/-- The bits 8:11 of a group 0 word are three bits of the format and one of its own. -/
theorem decode16_pushPopMultiple {w : Parcel} (h : fld w 9 7 = 0b0000010#7) : decode16 w = decodePushPopMultiple w := by
  rw [decode16, fld_within (k := 3) h (by decide)]
  show decodeGroup0 w = _
  have h9 : (fld w 8 4).extractLsb' 1 3 = 2#3 := (fld_extract (by decide)).trans (fld_within (k := 0) h (by decide))
  have halves : ∀ x : BitVec 4, x.extractLsb' 1 3 = 2#3 → x = 4#4 ∨ x = 5#4 := by decide
  rcases halves _ h9 with h8 | h8 <;> (rw [decodeGroup0, h8]; rfl)

theorem decode16_ccMv {w : Parcel} (h : fld w 9 7 = 0b0000011#7) : decode16 w = decodeCcMv w := by
  rw [decode16, fld_within (k := 3) h (by decide)]
  show decodeGroup0 w = _
  have h9 : (fld w 8 4).extractLsb' 1 3 = 3#3 := (fld_extract (by decide)).trans (fld_within (k := 0) h (by decide))
  have halves : ∀ x : BitVec 4, x.extractLsb' 1 3 = 3#3 → x = 6#4 ∨ x = 7#4 := by decide
  rcases halves _ h9 with h8 | h8 <;> (rw [decodeGroup0, h8]; rfl)

theorem decode16_ccFlag {w : Parcel} (h : fld w 11 5 = 0b00001#5) : decode16 w = decodeCcFlag w := by
  rw [decode16, fld_within (k := 1) h (by decide)]
  show decodeGroup0 w = _
  have h11 : (fld w 8 4).extractLsb' 3 1 = 1#1 := (fld_extract (by decide)).trans (fld_within (k := 0) h (by decide))
  unfold decodeGroup0
  split <;> simp_all

theorem decode16_brcc {w : Parcel} (h : fld w 12 4 = 1#4) : decode16 w = decodeBrcc w := by
  rw [decode16, fld_within (k := 0) h (by decide)]; rfl

theorem decode16_regMv {w : Parcel} (h : fld w 12 4 = 3#4) : decode16 w = decodeRegMv w := by
  rw [decode16, fld_within (k := 0) h (by decide)]; rfl

theorem decode16_group4 {w : Parcel} (h : fld w 12 4 = 4#4) : decode16 w = decodeGroup4 w := by
  rw [decode16, fld_within (k := 0) h (by decide)]; rfl

theorem decode16_comp3 {w : Parcel} (h : fld w 12 4 = 5#4) : decode16 w = decodeComp3 w := by
  rw [decode16, fld_within (k := 0) h (by decide)]; rfl

theorem decode16_compI {w : Parcel} (h : fld w 12 4 = 6#4) : decode16 w = decodeCompI w := by
  rw [decode16, fld_within (k := 0) h (by decide)]; rfl

theorem decode16_ldstPmod {w : Parcel} (h : fld w 12 4 = 8#4) : decode16 w = decodeLdstPmod w := by
  rw [decode16, fld_within (k := 0) h (by decide)]; rfl

/-- Bits 11:10 tell LDST from the accesses through index registers. -/
theorem decode16_ldst {w : Parcel} (h : fld w 12 4 = 9#4) (h10 : fld w 10 2 ≠ 0b11#2) : decode16 w = decodeLdst w := by
  rw [decode16, h]
  exact if_neg h10

theorem decode16_dspLdst {w : Parcel} (h : fld w 10 6 = 0b100111#6) : decode16 w = decodeDspLdst w := by
  rw [decode16, fld_within (k := 2) h (by decide)]
  exact if_pos (fld_within (k := 0) h (by decide))

/-- The top bit of the opcode field is bit 12 of the word. -/
theorem decode16_ldstIi {w : Parcel} (h : fld w 13 3 = 0b101#3) : decode16 w = decodeLdstIi w := by
  have h13 : (fld w 12 4).extractLsb' 1 3 = 0b101#3 := (fld_extract (by decide)).trans h
  have halves : ∀ x : BitVec 4, x.extractLsb' 1 3 = 0b101#3 → x = 10#4 ∨ x = 11#4 := by decide
  rcases halves _ h13 with h12 | h12 <;> (rw [decode16, h12]; rfl)

theorem decode32_loopSetup {w x : Parcel} (h : fld w 7 9 = 0b111000001#9) : decode32 w x = decodeLoopSetup w x := by
  rw [decode32, fld_within (k := 1) h (by decide)]
  exact if_pos (fld_within (k := 0) h (by decide))

theorem decode32_ldImm {w x : Parcel} (h : fld w 8 8 = 0xE1#8) : decode32 w x = decodeLdImm w x := by
  rw [decode32, h]; rfl

/-- Bits 9:8 of the word are the upper two of the operation. -/
theorem decode32_ldstIdx {w x : Parcel} (h : fld w 10 6 = 0b111001#6) : decode32 w x = decodeLdstIdx w x := by
  have h10 : (fld w 8 8).extractLsb' 2 6 = 0b111001#6 := (fld_extract (by decide)).trans h
  have quarters : ∀ y : BitVec 8, y.extractLsb' 2 6 = 0b111001#6 → y = 0xE4#8 ∨ y = 0xE5#8 ∨ y = 0xE6#8 ∨ y =
    0xE7#8 := by
    decide
  rcases quarters _ h10 with h8 | h8 | h8 | h8 <;> (rw [decode32, h8]; rfl)

/-! What each format's parcels hold. -/

theorem decodes_encProg {f p : BitVec 4} {i : Instr}
    (h : ∀ w, fld w 4 4 = f → fld w 0 4 = p → decodeProgCtrl w = .instr i) :
    Decodes (encProg f p) i :=
  decodes_two (of_encProg f p) (.trans (decode16_progCtrl (field_above (field_above (lo := 0) rfl)))
    (h _ (field_above (field_lowest _ _)) (field_lowest _ _)))

theorem decodes_encProg3 {f : BitVec 4} {n : BitVec 3} {i : Instr}
    (h : ∀ w, fld w 4 4 = f → fld w 3 1 = 0#1 → fld w 0 3 = n → decodeProgCtrl w = .instr i) :
    Decodes (encProg3 f n) i :=
  decodes_two (of_encProg3 f n) (.trans (decode16_progCtrl (field_above (field_above (field_above (lo := 0) rfl))))
    (h _ (field_above (field_above (field_lowest _ _))) (field_above (field_lowest _ _)) (field_lowest _ _)))

theorem decodes_encCache {post : Bool} {op : BitVec 2} {p : PReg} {i : Instr}
    (h : ∀ w, fld w 6 2 = 0b01#2 → fld w 5 1 = bitField post → fld w 3 2 = op → fld w 0 3 = p.code →
      decodeCcRegCache w = .instr i) :
    Decodes (encCache post op p) i :=
  decodes_two (of_encCache post op p) (.trans (decode16_ccRegCache (field_above (field_above (field_above
    (field_above (lo := 0) rfl)))))
    (h _ (field_above (field_above (field_above (field_lowest _ _)))) (field_above (field_above
      (field_lowest _ _))) (field_above (field_lowest _ _)) (field_lowest _ _)))

theorem decodes_encCcReg {op : BitVec 2} {n : BitVec 3} {i : Instr}
    (h : ∀ w, fld w 6 2 = 0#2 → fld w 3 3 = 0#1 ++ op → fld w 0 3 = n → decodeCcRegCache w = .instr i) :
    Decodes (encCcReg op n) i :=
  have top : ∀ op : BitVec 2, (0x02#8 ++ 0#3 ++ op).extractLsb' 0 3 = 0#1 ++ op := by decide
  decodes_two (of_encCcReg op n) (.trans (decode16_ccRegCache (field_above (field_above (lo := 3) rfl)))
    (h _ (field_above (field_above (lo := 1) rfl)) (field_above (lo := 0) (top op)) (field_lowest _ _)))

theorem decodes_encCcStat {op : BitVec 3} {b : AstatBit} {i : Instr}
    (h : ∀ w, fld w 5 3 = op → fld w 0 5 = b.code → decodeCc2stat w = .instr i) :
    Decodes (encCcStat op b) i :=
  decodes_two (of_encCcStat op b) (.trans (decode16_cc2stat (field_above (field_above (lo := 0) rfl)))
    (h _ (field_above (field_lowest _ _)) (field_lowest _ _)))

theorem decodes_encMult {op d p : BitVec 3} {i : Instr}
    (h : ∀ w, fld w 6 3 = op → fld w 3 3 = d → fld w 0 3 = p → decodePushPopMultiple w = .instr i) :
    Decodes (encMult op d p) i :=
  decodes_two (of_encMult op d p) (.trans (decode16_pushPopMultiple (field_above (field_above
    (field_above (lo := 0) rfl))))
    (h _ (field_above (field_above (field_lowest _ _))) (field_above (field_lowest _ _)) (field_lowest _ _)))

theorem decodes_encCcMv {t : BitVec 1} {dst src : DPReg} {i : Instr}
    (h : ∀ w, fld w 8 1 = t → fld w 7 1 = dst.sel → fld w 6 1 = src.sel → fld w 3 3 = dst.num →
      fld w 0 3 = src.num → decodeCcMv w = .instr i) :
    Decodes (encCcMv t dst src) i :=
  decodes_two (of_encCcMv t dst src) (.trans (decode16_ccMv (field_above (field_above (field_above
    (field_above (field_above (lo := 0) rfl))))))
    (h _ (field_above (field_above (field_above (field_above (field_lowest _ _))))) (field_above (field_above
      (field_above (field_lowest _ _)))) (field_above (field_above (field_lowest _ _))) (field_above
        (field_lowest _ _)) (field_lowest _ _)))

theorem decodes_encCcFlag {op : BitVec 5} {y x : BitVec 3} {i : Instr}
    (h : ∀ w, fld w 6 5 = op → fld w 3 3 = y → fld w 0 3 = x → decodeCcFlag w = .instr i) :
    Decodes (encCcFlag op y x) i :=
  decodes_two (of_encCcFlag op y x) (.trans (decode16_ccFlag (field_above (field_above (field_above (lo := 0) rfl))))
    (h _ (field_above (field_above (field_lowest _ _))) (field_above (field_lowest _ _)) (field_lowest _ _)))

theorem decodes_encBrcc {t : BitVec 1} {bp : Bool} {off : BitVec 10} {i : Instr}
    (h : ∀ w, fld w 11 1 = t → fld w 10 1 = bitField bp → fld w 0 10 = off → decodeBrcc w = .instr i) :
    Decodes (encBrcc t bp off) i :=
  decodes_two (of_encBrcc t bp off) (.trans (decode16_brcc (field_above (field_above (field_above (lo := 0) rfl))))
    (h _ (field_above (field_above (field_lowest _ _))) (field_above (field_lowest _ _)) (field_lowest _ _)))

theorem decodes_encGrp4 {op : BitVec 5} {s d : BitVec 3} {i : Instr}
    (h : ∀ w, fld w 11 1 = 0#1 → fld w 6 5 = op → fld w 3 3 = s → fld w 0 3 = d → decodeGroup4 w = .instr i) :
    Decodes (encGrp4 op s d) i :=
  decodes_two (of_encGrp4 op s d) (.trans (decode16_group4 (field_above (field_above (field_above
    (field_above (lo := 0) rfl)))))
    (h _ (field_above (field_above (field_above (field_lowest _ _)))) (field_above (field_above
      (field_lowest _ _))) (field_above (field_lowest _ _)) (field_lowest _ _)))

theorem decodes_encComp3 {op d s1 s0 : BitVec 3} {i : Instr}
    (h : ∀ w, fld w 9 3 = op → fld w 6 3 = d → fld w 3 3 = s1 → fld w 0 3 = s0 → decodeComp3 w = .instr i) :
    Decodes (encComp3 op d s1 s0) i :=
  decodes_two (of_encComp3 op d s1 s0) (.trans (decode16_comp3 (field_above (field_above (field_above
    (field_above (lo := 0) rfl)))))
    (h _ (field_above (field_above (field_above (field_lowest _ _)))) (field_above (field_above
      (field_lowest _ _))) (field_above (field_lowest _ _)) (field_lowest _ _)))

theorem decodes_encCompI {op : BitVec 2} {imm : BitVec 7} {d : BitVec 3} {i : Instr}
    (h : ∀ w, fld w 10 2 = op → fld w 3 7 = imm → fld w 0 3 = d → decodeCompI w = .instr i) :
    Decodes (encCompI op imm d) i :=
  decodes_two (of_encCompI op imm d) (.trans (decode16_compI (field_above (field_above (field_above (lo := 0) rfl))))
    (h _ (field_above (field_above (field_lowest _ _))) (field_above (field_lowest _ _)) (field_lowest _ _)))

theorem decodes_encPmod {op : BitVec 3} {rr : DReg} {pi pp : PReg} {i : Instr}
    (h : ∀ w, fld w 9 3 = op → fld w 6 3 = rr.code → fld w 3 3 = pi.code → fld w 0 3 = pp.code →
      decodeLdstPmod w = .instr i) :
    Decodes (encPmod op rr pi pp) i :=
  decodes_two (of_encPmod op rr pi pp) (.trans (decode16_ldstPmod (field_above (field_above (field_above
    (field_above (lo := 0) rfl)))))
    (h _ (field_above (field_above (field_above (field_lowest _ _)))) (field_above (field_above
      (field_lowest _ _))) (field_above (field_lowest _ _)) (field_lowest _ _)))

/-- The operation's field holds the two that dspLDST cuts it into (30 R196). -/
theorem decodes_encDsp {op : BitVec 5} {n : Quad} {rr : DReg} {i : Instr}
    (h : ∀ w, fld w 5 5 = op → fld w 7 3 = op.extractLsb' 2 3 → fld w 5 2 = op.extractLsb' 0 2 → fld w 3 2 = n.code →
      fld w 0 3 = rr.code → decodeDspLdst w = .instr i) :
    Decodes (encDsp op n rr) i :=
  have hop : fld (0b100111#6 ++ op ++ n.code ++ rr.code) 5 5 = op := field_above (field_above (field_lowest _ _))
  decodes_two (of_encDsp op n rr)
    (.trans (decode16_dspLdst (field_above (field_above (field_above (lo := 0) rfl))))
      (h _ hop (fld_within (k := 2) hop (by decide)) (fld_within (k := 0) hop (by decide))
        (field_above (field_lowest _ _)) (field_lowest _ _)))

/-- With a modify register the operation is three bits and the register two. -/
theorem decodes_encDsp_mod {op : BitVec 3} {m n : Quad} {rr : DReg} {i : Instr}
    (h : ∀ w, fld w 7 3 = op → fld w 5 2 = m.code → fld w 3 2 = n.code → fld w 0 3 = rr.code →
      decodeDspLdst w = .instr i) :
    Decodes (encDsp (op ++ m.code) n rr) i :=
  have top : ∀ (op : BitVec 3) (m : BitVec 2), (op ++ m).extractLsb' 2 3 = op := by decide
  decodes_encDsp fun w _ h7 h5 h3 h0 => h w (h7.trans (top op m.code)) (h5.trans (field_lowest _ _)) h3 h0

theorem decodes_encDagM {op : BitVec 6} {m n : Quad} {i : Instr}
    (h : ∀ w, fld w 4 6 = op → fld w 7 3 = op.extractLsb' 3 3 → fld w 5 5 = op.extractLsb' 1 5 → fld w 2 2 = m.code →
      fld w 0 2 = n.code → decodeDspLdst w = .instr i) :
    Decodes (encDagM op m n) i :=
  have hop : fld (0b100111#6 ++ op ++ m.code ++ n.code) 4 6 = op := field_above (field_above (field_lowest _ _))
  decodes_two (of_encDagM op m n)
    (.trans (decode16_dspLdst (field_above (field_above (field_above (lo := 0) rfl))))
      (h _ hop (fld_within (k := 3) hop (by decide)) (fld_within (k := 1) hop (by decide))
        (field_above (field_lowest _ _)) (field_lowest _ _)))

theorem decodes_encDagK {op : BitVec 2} {n : Quad} {i : Instr}
    (h : ∀ w, fld w 7 3 = 0b110#3 → fld w 5 5 = 0b11011#5 → fld w 4 6 = 0b110110#6 → fld w 2 2 = op →
      fld w 0 2 = n.code →
      decodeDspLdst w = .instr i) :
    Decodes (encDagK op n) i :=
  decodes_two (of_encDagK op n) (.trans (decode16_dspLdst (field_above (field_above (lo := 6) rfl)))
    (h _ (field_above (field_above (lo := 3) rfl)) (field_above (field_above (lo := 1) rfl))
      (field_above (field_above (lo := 0) rfl)) (field_above (field_lowest _ _)) (field_lowest _ _)))

theorem decodes_encLdstIi {op : BitVec 3} {off : BitVec 4} {pp : PReg} {r : BitVec 3} {i : Instr}
    (h : ∀ w, fld w 10 3 = op → fld w 6 4 = off → fld w 3 3 = pp.code → fld w 0 3 = r → decodeLdstIi w = .instr i) :
    Decodes (encLdstIi op off pp r) i :=
  decodes_two (of_encLdstIi op off pp r)
    (.trans (decode16_ldstIi (field_above (field_above (field_above (field_above (lo := 0) rfl)))))
      (h _ (field_above (field_above (field_above (field_lowest _ _)))) (field_above (field_above (field_lowest _ _)))
        (field_above (field_lowest _ _)) (field_lowest _ _)))

theorem decodes_encLdstFp {wr : BitVec 1} {off : BitVec 5} {sel : BitVec 1} {r : BitVec 3} {i : Instr}
    (h : ∀ w, fld w 10 3 = 0b110#3 → fld w 9 1 = wr → fld w 4 5 = off → fld w 3 1 = sel → fld w 0 3 = r →
      decodeLdstIi w = .instr i) :
    Decodes (encLdstFp wr off sel r) i :=
  decodes_two (of_encLdstFp wr off sel r)
    (.trans (decode16_ldstIi (field_above (field_above (field_above (field_above (lo := 3) rfl)))))
      (h _ (field_above (field_above (field_above (field_above (lo := 0) rfl))))
        (field_above (field_above (field_above (field_lowest _ _)))) (field_above (field_above (field_lowest _ _)))
        (field_above (field_lowest _ _)) (field_lowest _ _)))

theorem decodes_encLdst {op : BitVec 6} {pp : PReg} {r : BitVec 3} {i : Instr} (hop : op.extractLsb' 4 2 ≠ 0b11#2)
    (h : ∀ w, fld w 6 6 = op → fld w 3 3 = pp.code → fld w 0 3 = r → decodeLdst w = .instr i) :
    Decodes (encLdst op pp r) i :=
  have hw : fld (0b1001#4 ++ op ++ pp.code ++ r) 6 6 = op := field_above (field_above (field_lowest _ _))
  decodes_two (of_encLdst op pp r)
    (.trans (decode16_ldst (field_above (field_above (field_above (lo := 0) rfl)))
      ((fld_within (k := 4) hw (by decide)).trans_ne hop))
      (h _ hw (field_above (field_lowest _ _)) (field_lowest _ _)))

theorem decodes_encLogi {op : BitVec 3} {imm : BitVec 5} {d : DReg} {i : Instr}
    (h : ∀ w, fld w 11 1 = 1#1 → fld w 8 3 = op → fld w 3 5 = imm → fld w 0 3 = d.code → decodeGroup4 w = .instr i) :
    Decodes (encLogi op imm d) i :=
  decodes_two (of_encLogi op imm d)
    (.trans (decode16_group4 (field_above (field_above (field_above (lo := 1) rfl))))
      (h _ (field_above (field_above (field_above (lo := 0) rfl))) (field_above (field_above (field_lowest _ _)))
        (field_above (field_lowest _ _)) (field_lowest _ _)))

theorem decodes_encPushPop {wr : BitVec 1} {r : Reg} {i : Instr}
    (h : ∀ w, fld w 6 2 = 0#1 ++ wr → fld w 3 3 = r.grp → fld w 0 3 = r.num → decodePushPopReg w = .instr i) :
    Decodes (encPushPop wr r) i :=
  have top : ∀ wr : BitVec 1, (0x01#8 ++ 0#1 ++ wr).extractLsb' 0 2 = 0#1 ++ wr := by decide
  decodes_two (of_encPushPop wr r)
    (.trans (decode16_pushPopReg (field_above (field_above (field_above (field_above (lo := 0) rfl)))))
      (h _ (field_above (field_above (lo := 0) (top wr))) (field_above (field_lowest _ _)) (field_lowest _ _)))

theorem decode16_jumpShort {w : Parcel} {o : BitVec 12} (h : fld w 12 4 = 2#4) (h0 : fld w 0 12 = o) :
    decode16 w = .instr (.jumpShort o) := by
  rw [decode16, h, h0]; rfl

theorem decodes_jumpShort {o : BitVec 12} : Decodes (encode (.jumpShort o)) (.jumpShort o) :=
  decodes_two (jumpShort o) (decode16_jumpShort (field_above (lo := 0) rfl) (field_lowest _ _))

theorem decodeRegMv_codes {w : Parcel} {dst src : Reg} (h : (Instr.regMove dst src).wf = true)
    (h9 : fld w 9 3 = dst.grp) (h6 : fld w 6 3 = src.grp) (h3 : fld w 3 3 = dst.num) (h0 : fld w 0 3 = src.num) :
    decodeRegMv w = .instr (.regMove dst src) := by
  simp only [decodeRegMv, h9, h6, h3, h0, Reg.ofCode_num]
  exact Decoded.ofTerm_wf h

theorem decodes_regMove {dst src : Reg} (h : (Instr.regMove dst src).wf = true) :
    Decodes (encode (.regMove dst src)) (.regMove dst src) :=
  decodes_two (regMove dst src)
    (.trans (decode16_regMv (field_above (field_above (field_above (field_above (lo := 0) rfl)))))
      (decodeRegMv_codes h (field_above (field_above (field_above (field_lowest _ _))))
        (field_above (field_above (field_lowest _ _))) (field_above (field_lowest _ _)) (field_lowest _ _)))

/-! The formats of two parcels. -/

theorem decodes_encLoop {op : BitVec 2} {c : LoopNo} {soff : BitVec 4} {p : BitVec 3} {eoff : BitVec 10} {i : Instr}
    (h : ∀ w x, fld w 5 2 = op → fld w 4 1 = c.code → fld w 0 4 = soff → fld x 15 1 = 0#1 → fld x 12 3 = p →
      fld x 10 2 = 0#2 → fld x 0 10 = eoff → decodeLoopSetup w x = .instr i) :
    Decodes (encLoop op c soff p eoff) i :=
  decodes_four (of_encLoop op c soff p eoff)
    (.trans (decode32_loopSetup (field_above (field_above (field_above (lo := 0) rfl))))
      (h _ _ (field_above (field_above (field_lowest _ _))) (field_above (field_lowest _ _)) (field_lowest _ _)
        (field_above (field_above (field_above (lo := 0) rfl))) (field_above (field_above (field_lowest _ _)))
        (field_above (field_lowest _ _)) (field_lowest _ _)))

theorem decodes_encLdImm {op : BitVec 3} {g : GenReg} {imm : BitVec 16} {i : Instr}
    (h : ∀ w, fld w 5 3 = op → fld w 3 2 = g.grp → fld w 0 3 = g.num → decodeLdImm w imm = .instr i) :
    Decodes (encLdImm op g imm) i :=
  decodes_four (of_encLdImm op g imm)
    (.trans (decode32_ldImm (field_above (field_above (field_above (lo := 0) rfl))))
      (h _ (field_above (field_above (field_lowest _ _))) (field_above (field_lowest _ _)) (field_lowest _ _)))

theorem decodes_encIdx {op : BitVec 4} {pp : PReg} {r : BitVec 3} {off : BitVec 16} {i : Instr}
    (h : ∀ w, fld w 6 4 = op → fld w 3 3 = pp.code → fld w 0 3 = r → decodeLdstIdx w off = .instr i) :
    Decodes (encIdx op pp r off) i :=
  decodes_four (of_encIdx op pp r off)
    (.trans (decode32_ldstIdx (field_above (field_above (field_above (lo := 0) rfl))))
      (h _ (field_above (field_above (field_lowest _ _))) (field_above (field_lowest _ _)) (field_lowest _ _)))

theorem decode32_jumpLong {w x : Parcel} (h : fld w 8 8 = 0xE2#8) : decode32 w x = .instr (.jumpLong (fld w 0 8 ++
    x)) := by
  rw [decode32, h]; rfl

theorem decode32_callLong {w x : Parcel} (h : fld w 8 8 = 0xE3#8) : decode32 w x = .instr (.callLong (fld w 0 8 ++
    x)) := by
  rw [decode32, h]; rfl

theorem decodes_jumpLong {o : BitVec 24} : Decodes (encode (.jumpLong o)) (.jumpLong o) := by
  refine decodes_four (jumpLong o) (.trans (decode32_jumpLong (field_above (lo := 0) rfl)) ?_)
  rw [show fld _ 0 8 = o.extractLsb' 16 8 from field_lowest _ _, halves_append]

theorem decodes_callLong {o : BitVec 24} : Decodes (encode (.callLong o)) (.callLong o) := by
  refine decodes_four (callLong o) (.trans (decode32_callLong (field_above (lo := 0) rfl)) ?_)
  rw [show fld _ 0 8 = o.extractLsb' 16 8 from field_lowest _ _, halves_append]

/-- Every well-formed instruction is read back from its encoding: the case split follows the formats. -/
theorem decodes_encode (i : Instr) (h : i.wf = true) : Decodes (encode i) i := by
  cases i
  case nop | rts | rti | rtx | rtn | rte | idle | csync | ssync | emuexcpt | raise | excpt =>
    exact decodes_encProg fun _ _ _ => by simp [decodeProgCtrl, *]
  case cli | sti | jumpReg | callReg | callPcReg | jumpPcReg | testset =>
    exact decodes_encProg3 fun _ _ _ _ => by simp [decodeProgCtrl, *]
  case popReg | pushReg =>
    exact decodes_encPushPop fun _ _ _ _ => by simp [decodePushPopReg, *, Decoded.ofOption, Decoded.ofTerm_wf h]
  case ccToD | dToCc | notCc =>
    exact decodes_encCcReg fun _ _ _ _ => by simp [decodeCcRegCache, *]
  case prefetch | flushinv | flush | iflush =>
    exact decodes_encCache fun _ _ _ _ _ => by simp [decodeCcRegCache, *]
  case ccSetBit | ccOrBit | ccAndBit | ccXorBit | bitSetCc | bitOrCc | bitAndCc | bitXorCc =>
    exact decodes_encCcStat fun _ _ _ => by simp [decodeCc2stat, *, Decoded.ofOption, Decoded.ofTerm, Instr.wf]
  case popMultDP | popMultD | popMultP | pushMultDP | pushMultD | pushMultP =>
    exact decodes_encMult fun _ _ _ _ => by simp [decodePushPopMultiple, *, Decoded.ofTerm]
  case movIfNotCc | movIfCc =>
    exact decodes_encCcMv fun _ _ _ _ _ _ => by simp [decodeCcMv, *]
  case cmpEqD | cmpEqDImm | cmpEqP | cmpEqPImm | cmpLtD | cmpLtDImm | cmpLtP | cmpLtPImm | cmpLeD |
      cmpLeDImm | cmpLeP | cmpLePImm | cmpLtuD | cmpLtuDImm | cmpLtuP | cmpLtuPImm | cmpLeuD | cmpLeuDImm |
      cmpLeuP | cmpLeuPImm =>
    exact decodes_encCcFlag fun _ _ _ _ => by simp [decodeCcFlag, *]
  case jumpIfNotCc | jumpIfCc =>
    exact decodes_encBrcc fun _ _ _ _ => by simp [decodeBrcc, *]
  case asrD | lsrD | lslD | mulD | sextHalf | zextHalf | sextByte | zextByte | negD | notD | subP | shl2P |
      shr2P | shr1P | sumShl1P | sumShl2P =>
    exact decodes_encGrp4 fun _ _ _ _ _ => by simp [decodeGroup4, *]
  case bittstNot | bittst | bitset | bittgl | bitclr | asrImm | lsrImm | lslImm =>
    exact decodes_encLogi fun _ _ _ _ _ => by simp [decodeGroup4, *]
  case addD | subD | andD | orD | xorD | addP | addPShl1 | addPShl2 =>
    exact decodes_encComp3 fun _ _ _ _ _ => by simp [decodeComp3, *]
  case movImmD | addImmD | movImmP | addImmP =>
    exact decodes_encCompI fun _ _ _ _ => by simp [decodeCompI, *]
  case ldPmod | ldPmodLo | ldPmodHi | ldPmodHalfZ | stPmod | stPmodLo | stPmodHi | ldPmodHalfX =>
    exact decodes_encPmod fun _ _ _ _ _ => by simp [decodeLdstPmod, *]
  case ldDInc | ldPInc | ldHalfZInc | ldHalfXInc | ldByteZInc | ldByteXInc | stDInc | stPInc | stHalfInc |
      stByteInc | ldDDec | ldPDec | ldHalfZDec | ldHalfXDec | ldByteZDec | ldByteXDec | stDDec | stPDec |
      stHalfDec | stByteDec | ldDInd | ldPInd | ldHalfZInd | ldHalfXInd | ldByteZInd | ldByteXInd | stDInd |
      stPInd | stHalfInd | stByteInd =>
    exact decodes_encLdst (by decide) fun _ _ _ _ => by simp [decodeLdst, *]
  case ldIInc | ldILoInc | ldIHiInc | stIInc | stILoInc | stIHiInc | ldIDec | ldILoDec | ldIHiDec | stIDec |
      stILoDec | stIHiDec | ldIInd | ldILoInd | ldIHiInd | stIInd | stILoInd | stIHiInd =>
    exact decodes_encDsp fun _ _ _ _ _ _ => by simp [decodeDspLdst, *]
  case addIM | subIM =>
    exact decodes_encDagM fun _ _ _ _ _ _ => by simp [decodeDspLdst, decodeDagMod, *]
  case addI2 | subI2 | addI4 | subI4 =>
    exact decodes_encDagK fun _ _ _ _ _ _ => by simp [decodeDspLdst, decodeDagMod, *]
  case ldDOff | ldHalfZOff | ldHalfXOff | ldPOff | stDOff | stHalfOff | stPOff =>
    exact decodes_encLdstIi fun _ _ _ _ _ => by simp [decodeLdstIi, *]
  case ldDFp | ldPFp | stDFp | stPFp =>
    exact decodes_encLdstFp fun _ _ _ _ _ _ => by simp [decodeLdstIi, *]
  case lsetup | lsetupP | lsetupPHalf =>
    exact decodes_encLoop fun _ _ _ _ _ _ _ _ _ => by simp [decodeLoopSetup, *]
  case ldiLo | ldiHi | ldiZ | ldiX =>
    exact decodes_encLdImm fun _ _ _ _ => by simp [decodeLdImm, *]
  case ldDIdx | ldPIdx | stDIdx | stPIdx | ldHalfZIdx | ldHalfXIdx | stHalfIdx | ldByteZIdx | ldByteXIdx |
      stByteIdx =>
    exact decodes_encIdx fun _ _ _ _ => by simp [decodeLdstIdx, *]
  case cmpEqAcc | cmpLtAcc | cmpLeAcc | link | unlink => exact fun _ => rfl
  case ldIMod | stIMod =>
    exact decodes_encDsp_mod fun _ _ _ _ _ => by simp [decodeDspLdst, *]
  case jumpShort => exact decodes_jumpShort
  case regMove => exact decodes_regMove h
  case jumpLong => exact decodes_jumpLong
  case callLong => exact decodes_callLong

namespace Machine

/-- Settles O5, format by format: the fields of the encoding choose the format's decoder and then the instruction. -/
theorem decodeEncode : Obligations.DecodeEncode := decodes_encode

end Machine
end Sys2Proof
end

section
/-! PROOF. Encodings written out, and words that no format has (30 R171, R173, R205, R210). -/

namespace Sys2Proof

theorem fld_toNat (w : Parcel) (lo n : Nat) : (fld w lo n).toNat = w.toNat / 2 ^ lo % 2 ^ n := by
  rw [fld, BitVec.extractLsb'_toNat, Nat.shiftRight_eq_div_pow]

/-- Bits 15:13 are 110 and bit 11 is set. -/
theorem lengthOf_eight {w : Parcel} (h : (0xC800 ≤ w.toNat ∧ w.toNat < 0xD000) ∨ (0xD800 ≤ w.toNat ∧ w.toNat < 0xE000)) :
    lengthOf w = .eight := by
  have h14 : fld w 14 2 = 0b11#2 := BitVec.eq_of_toNat_eq (by rw [fld_toNat]; show _ = 3; omega)
  have h11 : fld w 11 1 = 1#1 := BitVec.eq_of_toNat_eq (by rw [fld_toNat]; show _ = 1; omega)
  have h13 : fld w 13 3 = 0b110#3 := BitVec.eq_of_toNat_eq (by rw [fld_toNat]; show _ = 6; omega)
  simp [lengthOf, h14, h11, h13]

/-- Bits 15:14 are 11 and bit 11 is clear. -/
theorem lengthOf_four {w : Parcel} (h : (0xC000 ≤ w.toNat ∧ w.toNat < 0xC800) ∨ (0xD000 ≤ w.toNat ∧ w.toNat < 0xD800)) :
    lengthOf w = .four := by
  have h14 : fld w 14 2 = 0b11#2 := BitVec.eq_of_toNat_eq (by rw [fld_toNat]; show _ = 3; omega)
  have h11 : fld w 11 1 = 0#1 := BitVec.eq_of_toNat_eq (by rw [fld_toNat]; show _ = 0; omega)
  simp [lengthOf, h14, h11]

/-- The 32-bit formats begin at 0xE000. -/
theorem decode32_below {w x : Parcel} (h : w.toNat < 0xE000) : decode32 w x = .notInSubset := by
  have h8 : (fld w 8 8).toNat < 0xE0 := by rw [fld_toNat]; omega
  unfold decode32
  split <;> simp_all

namespace Machine

/-- Settles O6: the decoder is run on each word. -/
theorem decodeOfWrittenWords : Obligations.DecodeOfWrittenWords :=
  ⟨rfl, rfl, rfl, rfl, rfl, rfl, rfl, rfl, rfl, rfl, rfl, rfl, rfl, rfl, rfl⟩

/-- Settles O7 by the length rule and the least word of the 32-bit formats. -/
theorem refusedEncodings : Obligations.RefusedEncodings := by
  intro w x rest
  constructor
  · intro h
    simp only [decodeParcels, lengthOf_eight h]
  · intro h
    simp only [decodeParcels, lengthOf_four h]
    exact decode32_below (by omega)

end Machine
end Sys2Proof
end

section
/-! PROOF. Reset, the registers of groups 0 to 3, ASTAT as a word (10 R60 to R73, R90). -/

namespace Sys2Proof.Machine

/-! ### Bits of a word -/

theorem getLsbD_one_shiftLeft {k j : Nat} (hj : j < 32) : (1#32 <<< k).getLsbD j = decide (j = k) := by
  rw [BitVec.getLsbD_shiftLeft, BitVec.getLsbD_one]
  by_cases h : j = k
  · simp [h, h ▸ hj]
  · simp [h, hj]; omega

theorem getLsbD_setBit {w : Word} {k j : Nat} (hj : j < 32) : (setBit w k).getLsbD j = (w.getLsbD j || decide (j = k)) := by
  rw [setBit, BitVec.getLsbD_or, getLsbD_one_shiftLeft hj]

theorem getLsbD_flagAt {b : Bool} {k j : Nat} (hj : j < 32) : (flagAt b k).getLsbD j = (decide (j = k) && b) := by
  cases b with
  | false => simp [flagAt]
  | true => simp [flagAt, getLsbD_one_shiftLeft hj]

/-! ### ASTAT -/

/-- Each bit of ASTAT as a word (10 R64), field by field. -/
theorem Astat.getLsbD_toWord (a : Astat) {k : Nat} (hk : k < 32) : a.toWord.getLsbD k =
    ((decide (k = 0) && a.az) || (decide (k = 1) && a.an) || (decide (k = 2) && a.ac0) || (decide (k = 3) && a.v) ||
      (decide (k = 5) && a.cc) || (decide (k = 6) && a.aq) || (decide (k = 8) && a.rndMod) ||
      (decide (k = 12) && a.ac0) || (decide (k = 13) && a.ac1) || (decide (k = 16) && a.av0) ||
      (decide (k = 17) && a.av0s) || (decide (k = 18) && a.av1) || (decide (k = 19) && a.av1s) ||
      (decide (k = 24) && a.v) || (decide (k = 25) && a.vs)) := by
  simp only [Astat.toWord, BitVec.getLsbD_or, getLsbD_flagAt hk]

theorem Astat.ofFields_toWord (a : Astat) : Astat.ofFields a.toWord = a := by
  cases a
  simp [Astat.ofFields, bit, Astat.getLsbD_toWord, -BitVec.getLsbD_eq_getElem]

/-- The bit that 41 R275 names is the bit of that number. -/
theorem Astat.get_eq_bit (a : Astat) (n : AstatBit) : a.get n = a.toWord.getLsbD n.code.toNat := by
  cases n <;> simp [Astat.get, AstatBit.code, Astat.getLsbD_toWord, -BitVec.getLsbD_eq_getElem]

theorem Astat.get_put (a : Astat) (n m : AstatBit) (x : Bool) :
    (a.put n x).get m = if m = n then x else a.get m := by
  cases n <;> cases m <;> rfl

/-- CC and RND_MOD are not among the bits that move to and from CC. -/
theorem Astat.put_cc_rndMod (a : Astat) (n : AstatBit) (x : Bool) :
    (a.put n x).cc = a.cc ∧ (a.put n x).rndMod = a.rndMod := by
  cases n <;> exact ⟨rfl, rfl⟩

/-- Settles O4, field by field. -/
theorem astatLayout : Obligations.AstatLayout := by
  refine ⟨fun a k hk => ?_, Astat.ofFields_toWord, fun a n m x =>
    ⟨a.get_eq_bit n, a.get_put n m x, (a.put_cc_rndMod n x).1, (a.put_cc_rndMod n x).2⟩⟩
  rw [a.getLsbD_toWord hk]
  simp only [Bool.decide_or, Bool.and_or_distrib_right]
  ac_rfl

/-! ### The registers of groups 0 to 3 -/

theorem State.sp_of_user {s : State} (h : s.mode = .user) : s.sp = s.usp := by simp only [State.sp, h]

theorem State.sp_of_not_user {s : State} (h : s.mode ≠ .user) : s.sp = s.spSup := by
  cases hm : s.mode with
  | user => exact absurd hm h
  | supervisor | emulation => simp only [State.sp, hm]

theorem State.setSp_of_user {s : State} (h : s.mode = .user) (v : Word) : s.setSp v = { s with usp := v } := by
  simp only [State.setSp, h]

theorem State.setSp_of_not_user {s : State} (h : s.mode ≠ .user) (v : Word) : s.setSp v = { s with spSup := v } := by
  cases hm : s.mode with
  | user => exact absurd hm h
  | supervisor | emulation => simp only [State.setSp, hm]

theorem Quads.get_set (f : Quads) (n k : Quad) (v : Word) : (f.set n v).get k = if k = n then v else f.get k := by
  cases n <;> cases k <;> rfl

theorem DRegs.get_set (f : DRegs) (n k : DReg) (v : Word) : (f.set n v).get k = if k = n then v else f.get k := by
  by_cases h : k = n
  · rw [h, DRegs.get_set_self, if_pos rfl]
  · rw [DRegs.get_set_other _ _ _ _ h, if_neg h]

/-- The pointers other than SP are a file of their own; SP is bound by the mode, which no write of a pointer changes. -/
theorem State.getP_setP (s : State) (n k : PReg) (v : Word) : (s.setP n v).getP k = if k = n then v else s.getP k := by
  by_cases hn : n = .sp
  · subst hn
    by_cases hk : k = .sp
    · subst hk; exact s.sp_setSp v
    · rw [if_neg hk]; cases k <;> first | exact absurd rfl hk | simp [State.getP, State.setP]
  · by_cases hk : k = .sp
    · subst hk
      rw [if_neg (Ne.symm hn)]
      cases n <;> first | exact absurd rfl hn | rfl
    · cases n <;> cases k <;> first | exact absurd rfl hn | exact absurd rfl hk | rfl

theorem State.getGen_setGen (s : State) (g h : GenReg) (v : Word) :
    (s.setGen g v).getGen h = if h = g then v else s.getGen h := by
  cases g
  case d n => cases h <;> simp [State.setGen, State.getGen, State.getD, DRegs.get_set]
  case p n => cases h <;> simp [State.setGen, State.getGen, State.getP_setP]
  case i n | m n | b n | l n =>
    cases h
    case d k | p k => exact (if_neg GenReg.noConfusion).symm
    all_goals simp [State.setGen, State.getGen, Quads.get_set]

/-- Settles O3, set by set. -/
theorem registersReadBack : Obligations.RegistersReadBack := by
  intro s g h v
  refine ⟨s.getGen_setGen g h v, fun hm => ⟨State.sp_of_user hm, State.setSp_of_user hm v⟩,
    fun hm => ⟨State.sp_of_not_user hm, State.setSp_of_not_user hm v⟩⟩

/-! ### Reset -/

/-- Settles O1: the table of 10 R90 against the model's reset state. -/
theorem resetValues : Obligations.ResetValues :=
  ⟨rfl, rfl, rfl, rfl, rfl, rfl, rfl, rfl, rfl, rfl, rfl, rfl, rfl, rfl, rfl, rfl, rfl, rfl, rfl,
    ⟨by decide, by decide, rfl, fun j hj _ => by rw [Nat.lt_one_iff.mp hj]; rfl⟩, rfl, fun _ => rfl⟩

end Sys2Proof.Machine
end

section
/-! PROOF. The boundary, the event check, and the fetch (42 R300, R346; 60 R440 to R442, R452, R461; 30 R171, R172;
20 R133 to R143). -/

namespace Sys2Proof.Machine

/-! ### The boundary and the SIC -/

/-- What one boundary latches (60 R442, R461). -/
theorem State.getLsbD_boundary_ilat (s : State) (e : Arrival) {k : Nat} (hk : k < 32) :
    ((s.nmiPin e).timerFires e).ilat.getLsbD k =
      (s.ilat.getLsbD k || (decide (k = 2) && e.nmi) || (decide (k = 6) && (e.coreTimer && s.timer.runs))) := by
  simp only [State.timerFires, State.nmiPin]
  cases e.nmi <;> by_cases hf : (e.coreTimer && s.timer.runs) = true <;>
    simp [hf, getLsbD_setBit hk, -BitVec.getLsbD_eq_getElem]

/-- The field of a source is a digit of its SIC_IAR in base 16 (60 R452). -/
theorem sicField_eq (y : SysRegs) (p : Nat) :
    sicField y p =
      (if p < 8 then y.sicIar0 else if p < 16 then y.sicIar1 else y.sicIar2).toNat / 16 ^ (p % 8) % 16 := by
  have h0 : p / 8 = 0 ↔ p < 8 := by omega
  have h1 : p / 8 = 1 ↔ ¬ p < 8 ∧ p < 16 := by omega
  simp only [sicField, BitVec.extractLsb'_toNat, Nat.shiftRight_eq_div_pow, Nat.pow_mul, h0, h1]
  by_cases h8 : p < 8 <;> simp [h8]

/-- A source sets the bit of its event and no other (60 R452). -/
theorem getLsbD_latchSource (y : SysRegs) (ilat : Word) (p : Nat) {k : Nat} (hk : k < 32) :
    (latchSource y ilat p).getLsbD k = (ilat.getLsbD k ||
      (y.sicIsr.getLsbD p && y.sicImask.getLsbD p && decide (sicField y p ≤ 8 ∧ k = 7 + sicField y p))) := by
  unfold latchSource bit
  cases y.sicIsr.getLsbD p <;> cases y.sicImask.getLsbD p <;> by_cases h : sicField y p ≤ 8 <;>
    simp [h, getLsbD_setBit hk, -BitVec.getLsbD_eq_getElem]

theorem getLsbD_foldl_latchSource (y : SysRegs) (ps : List Nat) (ilat : Word) {k : Nat} (hk : k < 32) :
    (ps.foldl (latchSource y) ilat).getLsbD k = (ilat.getLsbD k || ps.any fun p =>
      y.sicIsr.getLsbD p && y.sicImask.getLsbD p && decide (sicField y p ≤ 8 ∧ k = 7 + sicField y p)) := by
  induction ps generalizing ilat with
  | nil => simp
  | cons p ps ih => rw [List.foldl_cons, ih, getLsbD_latchSource y ilat p hk, List.any_cons, Bool.or_assoc]

/-- With the SIC_IMASK of reset no request is passed. -/
theorem latchSources_masked (y : SysRegs) (ilat : Word) (h : y.sicImask = 0#32) : latchSources y ilat = ilat := by
  apply BitVec.eq_of_getLsbD_eq
  intro k hk
  rw [latchSources, getLsbD_foldl_latchSource y _ _ hk]
  simp [h]

/-- Settles O8 from what one arrival and one source do. -/
theorem boundaryLatches : Obligations.BoundaryLatches := by
  refine ⟨fun s => ⟨s.boundary_nil, fun e rest hs => ?_⟩, fun y ilat requests => ⟨fun k hk => ?_, ?_⟩⟩
  · rw [s.boundary_cons e rest hs]
    refine ⟨?_, fun k hk => ?_⟩
    · simp only [State.timerFires, State.nmiPin, CoreTimer.runs, bit, ← Bool.and_assoc, setBit]
      split <;> rfl
    · rw [Bool.and_assoc]; exact s.getLsbD_boundary_ilat e hk
  · simp only [← sicField_eq]
    exact getLsbD_foldl_latchSource y _ ilat hk
  · exact latchSources_masked _ ilat rfl

/-! ### The event check -/

/-- The first element of an ascending list that meets a test is at most every element that meets it. -/
theorem find?_le {α : Type} [LinearOrder α] {l : List α} {q : α → Bool} {a b : α} (hl : l.Pairwise (· < ·))
    (ha : l.find? q = some a) (hb : b ∈ l) (hq : q b = true) : a ≤ b := by
  induction l with
  | nil => cases hb
  | cons x xs ih =>
    rw [List.find?_cons] at ha
    rw [List.pairwise_cons] at hl
    cases hx : q x with
    | true =>
      simp only [hx, Option.some.injEq] at ha
      obtain rfl | hb := List.mem_cons.mp hb
      · exact ha.ge
      · exact ha ▸ (hl.1 b hb).le
    | false =>
      simp only [hx] at ha
      obtain rfl | hb := List.mem_cons.mp hb
      · rw [hq] at hx; cases hx
      · exact ih hl.2 ha hb

theorem mem_levels {j : Nat} : j ∈ levels ↔ j < 16 ∧ j ≠ 4 := by
  simp only [levels, List.mem_cons, List.not_mem_nil, or_false]
  omega

/-- An event is above everything in service if its bit of IPEND and those below it are clear, bit 4 apart (60 R441). -/
theorem lt_currentLevel {w : Word} {k : Nat} (hk : k < 16) :
    k < currentLevel w ↔ ∀ j, j ≤ k → j ≠ 4 → w.getLsbD j = false := by
  unfold currentLevel
  cases h : levels.find? (fun j => bit w j) with
  | none =>
    rw [List.find?_eq_none] at h
    refine iff_of_true hk fun j hj h4 => ?_
    simpa [bit] using h j (mem_levels.mpr ⟨by omega, h4⟩)
  | some c =>
    have hc : w.getLsbD c = true := List.find?_some h
    obtain ⟨-, hc4⟩ := mem_levels.mp (List.mem_of_find?_eq_some h)
    constructor
    · intro hlt j hj h4
      by_contra hbit
      have hle := find?_le (by decide) h (mem_levels.mpr ⟨by omega, h4⟩) (by simpa [bit] using hbit)
      exact absurd hlt (Nat.not_lt.mpr (hle.trans hj))
    · intro hall
      by_contra hlt
      exact absurd (hall c (Nat.not_lt.mp hlt) hc4) (by rw [hc]; decide)

theorem mem_latchable {k : Fin 16} : k ∈ latchable ↔ k.val = 2 ∨ 5 ≤ k.val := by
  revert k; decide

/-- The test of the event check is the rule of 60 R441. -/
theorem canAccept_iff (s : State) (k : Fin 16) :
    s.CanAccept k ↔ k ∈ latchable ∧ (bit s.ilat k.val && decide (k.val < currentLevel s.ipend) &&
      (k == 2 || (bit s.imask k.val && !bit s.ipend 4))) = true := by
  have h2 : k = 2 ↔ k.val = 2 := by rw [Fin.ext_iff]; rfl
  simp only [State.CanAccept, mem_latchable, bit, Bool.and_eq_true, Bool.or_eq_true, decide_eq_true_eq, beq_iff_eq,
    Bool.not_eq_true', lt_currentLevel k.isLt, h2]
  constructor
  · rintro ⟨hl, hall, h | ⟨h5, hm, h4⟩⟩
    · exact ⟨.inl h, ⟨hl, hall⟩, .inl h⟩
    · exact ⟨.inr h5, ⟨hl, hall⟩, .inr ⟨hm, h4⟩⟩
  · rintro ⟨hk | h5, ⟨hl, hall⟩, h⟩
    · exact ⟨hl, hall, .inl hk⟩
    · exact ⟨hl, hall, h.imp_right fun ⟨hm, h4⟩ => ⟨h5, hm, h4⟩⟩

theorem acceptedEvent_none {s : State} (h : ∀ k, ¬ s.CanAccept k) : s.acceptedEvent = none := by
  rw [State.acceptedEvent, List.find?_eq_none]
  exact fun k hk hq => h k ((canAccept_iff s k).mpr ⟨hk, hq⟩)

theorem acceptedEvent_mustAccept {s : State} {k : Fin 16} (h : s.MustAccept k) : s.acceptedEvent = some k := by
  obtain ⟨hk, hleast⟩ := h
  obtain ⟨hmem, hq⟩ := (canAccept_iff s k).mp hk
  cases hj : s.acceptedEvent with
  | none => exact absurd hq (List.find?_eq_none.mp hj k hmem)
  | some j =>
    have hle : j ≤ k := find?_le (by decide) hj hmem hq
    have htest := List.find?_some hj
    have hcan : s.CanAccept j := (canAccept_iff s j).mpr ⟨List.mem_of_find?_eq_some hj, htest⟩
    rcases hle.lt_or_eq with hlt | heq
    · exact absurd hcan (hleast j hlt)
    · rw [heq]

/-- Event entry as the statement describes it; event 3 is not among those a boundary accepts. -/
theorem enterEvent_interrupted {s : State} {k : Fin 16} (h : k.val = 2 ∨ 5 ≤ k.val) :
    s.enterEvent k s.pc = s.interrupted k := by
  have h3 : k ≠ 3 := fun e => by rw [e] at h; revert h; decide
  simp only [State.enterEvent, State.interrupted, if_neg h3, State.getEvt, clearBit, setBit]
  by_cases h5 : 5 ≤ k.val
  · simp only [h5, if_true, BitVec.or_assoc, BitVec.or_comm (1#32 <<< k.val)]
    rfl
  · simp only [h5, if_false, BitVec.or_zero]

/-- Settles O9: the event check finds the event that must be accepted. -/
theorem eventEntry : Obligations.EventEntry := by
  rintro s t rfl
  refine ⟨fun k hk => ?_, fun hnone hidle => ⟨?_, ?_⟩⟩
  · obtain ⟨hmem, -⟩ := (canAccept_iff _ k).mp hk.1
    rw [← enterEvent_interrupted (mem_latchable.mp hmem)]
    simp only [step, State.coreTurn, Agent.move, State.coreMove, acceptedEvent_mustAccept hk]
  · exact (s.boundary.coreMove_stuck).mpr ⟨hidle, acceptedEvent_none hnone⟩
  · have hstuck := (s.boundary.coreMove_stuck).mpr ⟨hidle, acceptedEvent_none hnone⟩
    simp only [step, State.coreTurn, Agent.move, hstuck]

/-! ### The fetch -/

/-- The bytes an instruction can be fetched from (20 R136 (b), R138). -/
theorem fetchBar_none (p : Platform) (x : Nat) : fetchBar p x = none ↔ p.Fetchable x := by
  unfold fetchBar Platform.populates Platform.Fetchable Platform.DataRam
  rcases regionOf_cases x with h | h | h | h | h | h | h | h | h | h | h | h | h
  case inr.inl => cases p.asyncBank0 <;> (simp [h]; try omega)
  case inr.inr.inl => cases p.asyncBank1 <;> (simp [h]; try omega)
  case inr.inr.inr.inl => cases p.asyncBank2 <;> (simp [h]; try omega)
  case inr.inr.inr.inr.inl => cases p.asyncBank3 <;> (simp [h]; try omega)
  all_goals simp [h] <;> omega

/-- A fetch is refused by one of two names. -/
theorem fetchBar_some {p : Platform} {x : Nat} {r : Refusal} (h : fetchBar p x = some r) :
    r = .unpopulatedAddress ∨ r = .fetchRegion := by
  unfold fetchBar at h
  split at h
  · split at h <;> simp_all
  · simp_all

theorem Platform.Fetchable.lt {p : Platform} {x : Nat} (h : p.Fetchable x) : x < 2 ^ 32 := by
  unfold Platform.Fetchable at h
  omega

/-- A span with a byte that cannot be fetched is refused by the name of such a byte. -/
theorem spanBar_fetch {p : Platform} {a : Nat} (h : ¬ p.Fetchable a) :
    ∃ r, spanBar (fetchBar p) a 2 = some r ∧ (r = .unpopulatedAddress ∨ r = .fetchRegion) := by
  cases hb : spanBar (fetchBar p) a 2 with
  | none => exact absurd ((fetchBar_none p a).mp ((spanBar_none _ _ _).mp hb 0 (by decide))) h
  | some r =>
    obtain ⟨x, -, hx⟩ := List.exists_of_findSome?_eq_some hb
    exact ⟨r, rfl, fetchBar_some hx⟩

theorem spanBar_fetch_none {p : Platform} {a : Nat} (h : ∀ k, k < 2 → p.Fetchable (a + k)) :
    spanBar (fetchBar p) a 2 = none :=
  (spanBar_none _ _ _).mpr fun k hk => (fetchBar_none p _).mpr (h k hk)

theorem any_stored {t : AddrSet} {a n : Nat} :
    (span a n).any (fun x => t.contains x) = true ↔ ∃ k, k < n ∧ (a + k) ∈ t := by
  simp only [List.any_eq_true, mem_span, List.contains_iff_mem]
  constructor
  · rintro ⟨x, ⟨hx, hlt⟩, hm⟩
    exact ⟨x - a, by omega, by rwa [show a + (x - a) = x by omega]⟩
  · rintro ⟨k, hk, hm⟩
    exact ⟨a + k, ⟨by omega, by omega⟩, hm⟩

theorem bit_zero_even {a : Word} (h : a.toNat % 2 = 0) : bit a 0 = false := by
  rw [bit_eq_decide]; simp [h]

theorem joinBytes_parcelBytes (w : Parcel) : (joinBytes (parcelBytes w)).setWidth 16 = w := by
  apply BitVec.eq_of_getLsbD_eq
  intro k hk
  by_cases h8 : k < 8
  · simp [joinBytes, parcelBytes, hk, h8]
  · simp [joinBytes, parcelBytes, hk, h8, show k - 8 < 8 by omega, show 8 + (k - 8) = k by omega]

/-- A byte without a value leaves the bytes around it unread (10 R91). -/
theorem readBytes_none {m : Memory} {a n k : Nat} (hk : k < n) (h : m.read (a + k) = none) : m.readBytes a n = none := by
  cases hr : m.readBytes a n with
  | none => rfl
  | some xs =>
    obtain ⟨hlen, hall⟩ := (Memory.readBytes_some _ _ _ _).mp hr
    rw [hall k (by omega)] at h
    cases h

/-- A parcel held as code is fetched (30 R172). -/
theorem fetchParcel_holds {s : State} {a : Word} {w : Parcel} (heven : a.toNat % 2 = 0)
    (h : s.HoldsCode a.toNat (parcelBytes w)) : fetchParcel s a = .ok w := by
  have hread : s.mem.readBytes a.toNat 2 = some (parcelBytes w) :=
    (Memory.readBytes_some _ _ _ _).mpr ⟨rfl, fun k hk => (h k hk).1⟩
  have hst : ¬ (span a.toNat 2).any (fun x => s.stored.contains x) = true := fun g => by
    obtain ⟨k, hk, hm⟩ := any_stored.mp g
    exact (h k hk).2.2 hm
  simp only [fetchParcel, bit_zero_even heven, spanBar_fetch_none fun k hk => (h k hk).2.1, hst, hread,
    joinBytes_parcelBytes]
  rfl

/-- Parcels that hold one instruction and nothing after it are one or two, as the first one says (30 R171). -/
theorem decodeParcels_whole {ps : List Parcel} {i : Instr} (h : decodeParcels ps = (.instr i, [])) :
    (∃ w, ps = [w] ∧ lengthOf w = .two) ∨ ∃ w x, ps = [w, x] ∧ lengthOf w = .four := by
  unfold decodeParcels at h
  split at h
  · cases h
  · split at h
    case h_1 w rest _ hlen =>
      obtain ⟨-, rfl⟩ := Prod.mk.inj h
      exact .inl ⟨_, rfl, hlen⟩
    case h_2 w rest _ x rest' hlen =>
      obtain ⟨-, rfl⟩ := Prod.mk.inj h
      exact .inr ⟨_, x, rfl, hlen⟩
    all_goals cases h

/-- The bytes of a second parcel stand two above those of the first, still inside the address space. -/
theorem State.HoldsCode.second {s : State} {a : Word} {w x : Parcel}
    (h : s.HoldsCode a.toNat ([w, x].flatMap parcelBytes)) :
    s.HoldsCode a.toNat (parcelBytes w) ∧ (a + 2#32).toNat = a.toNat + 2 ∧
      s.HoldsCode (a.toNat + 2) (parcelBytes x) := by
  have hlen : ([w, x].flatMap parcelBytes).length = 4 := rfl
  have hlt := (h 2 (by omega)).2.1.lt
  refine ⟨fun k hk => ?_, by bv_omega, fun k hk => ?_⟩
  · have hk2 : k < 2 := hk
    obtain rfl | rfl : k = 0 ∨ k = 1 := by omega
    · exact h 0 (by omega)
    · exact h 1 (by omega)
  · have hk2 : k < 2 := hk
    obtain rfl | rfl : k = 0 ∨ k = 1 := by omega
    · exact h 2 (by omega)
    · exact h 3 (by omega)

/-- The instruction that the bytes at an even pc encode is fetched, with its length (30 R171, R172). -/
theorem fetchInstr_holds {s : State} {i : Instr} {ps : List Parcel} (heven : s.pc.toNat % 2 = 0)
    (hd : decodeParcels ps = (.instr i, [])) (h : s.HoldsCode s.pc.toNat (ps.flatMap parcelBytes)) :
    fetchInstr s = .ok (i, 2 * ps.length) := by
  obtain ⟨w, rfl, hlen⟩ | ⟨w, x, rfl, hlen⟩ := decodeParcels_whole hd
  · have hw : fetchParcel s s.pc = .ok w := fetchParcel_holds heven h
    simp only [fetchInstr, hw, Res.ok_bind, hlen, hd, admitted]
    rfl
  · obtain ⟨h0, hnext, h1⟩ := h.second
    have hw : fetchParcel s s.pc = .ok w := fetchParcel_holds heven h0
    have hx : fetchParcel s (s.pc + 2#32) = .ok x := fetchParcel_holds (by omega) (hnext ▸ h1)
    simp only [fetchInstr, hw, hx, Res.ok_bind, hlen, hd, admitted]
    rfl

/-- Where no event is accepted and the core is not idle, the step is the instruction at pc (42 R300). -/
theorem step_runInstr {s : State} (hnone : ∀ k, ¬ s.boundary.CanAccept k) (hidle : s.boundary.idle = false) :
    step s = s.boundary.runInstr := by
  obtain ⟨k, hk, -⟩ | ⟨-, hi, -⟩ | ⟨-, -, hrun⟩ := s.boundary.coreTurn_cases
  · rw [acceptedEvent_none hnone] at hk; cases hk
  · rw [hidle] at hi; cases hi
  · exact hrun

/-- Settles O10 through the fetch of the parcels. -/
theorem stepRunsDecoded : Obligations.StepRunsDecoded := by
  rintro s t i ps rfl hnone hidle heven hd hcode
  rw [step_runInstr hnone hidle, State.runInstr, fetchInstr_holds heven hd hcode]
  rfl

/-- A stop of the fetch of the first parcel is that of the instruction. -/
theorem fetchInstr_stops {s : State} :
    (∀ c, fetchParcel s s.pc = .trap c → fetchInstr s = .trap c) ∧
    (∀ r, fetchParcel s s.pc = .refused r → fetchInstr s = .refused r) ∧
    (∀ f, fetchParcel s s.pc = .fault f → fetchInstr s = .fault f) := by
  refine ⟨fun c h => ?_, fun r h => ?_, fun f h => ?_⟩ <;> simp [fetchInstr, h]

/-- Settles O11 by the order in which the fetch makes its checks. -/
theorem fetchStops : Obligations.FetchStops := by
  rintro s t rfl hnone hidle
  rw [step_runInstr hnone hidle]
  obtain ⟨htrap, hrefused, hfault⟩ := fetchInstr_stops (s := s.boundary)
  have hodd : s.boundary.pc.toNat % 2 = 1 → s.boundary.runInstr = takeException s.boundary .instrMisaligned := fun h => by
    have hb : bit s.boundary.pc 0 = true := by rw [bit_eq_decide, decide_eq_true_iff]; omega
    rw [State.runInstr, htrap .instrMisaligned (by simp only [fetchParcel, hb, if_true])]
  obtain ⟨htaken, hdouble⟩ := takeException_eq s.boundary .instrMisaligned
  refine ⟨fun h ht => ?_, fun h ht => ?_, fun h hno => ?_, fun h hall => ⟨fun hst => ?_, fun hst hno => ?_⟩⟩
  · rw [hodd h, htaken ht]
    rfl
  · rw [hodd h, hdouble ht]
  · obtain ⟨r, hr, hname⟩ := spanBar_fetch hno
    have hp : fetchParcel s.boundary s.boundary.pc = .refused r := by
      simp only [fetchParcel, bit_zero_even h, hr]
      rfl
    rw [State.runInstr, hrefused r hp]
    exact hname.imp (congrArg _) (congrArg _)
  · have hp : fetchParcel s.boundary s.boundary.pc = .refused .storeToCode := by
      simp only [fetchParcel, bit_zero_even h, spanBar_fetch_none hall, any_stored.mpr hst]
      rfl
    rw [State.runInstr, hrefused _ hp]
  · obtain ⟨k, hk, hbyte⟩ := hno
    have hfree : (span s.boundary.pc.toNat 2).any (fun x => s.boundary.stored.contains x) = false :=
      Bool.eq_false_iff.mpr fun g => by
        obtain ⟨j, hj, hm⟩ := any_stored.mp g
        exact hst j hj hm
    have hp : fetchParcel s.boundary s.boundary.pc = .fault .readOfUnwritten := by
      simp only [fetchParcel, bit_zero_even h, spanBar_fetch_none hall, hfree, readBytes_none hk hbyte]
      rfl
    rw [State.runInstr, hfault _ hp]

end Sys2Proof.Machine
end

section
/-! PROOF. Jumps and calls, event returns, event generation and masking (42 R302 to R313, R335 to R350). -/

namespace Sys2Proof.Machine

/-! ### The end of an instruction away from a loop's end -/

theorem LoopRegs.check_of_not_ends {s : State} {l : LoopRegs} (h : ¬ s.Ends l) : l.check s.pc = (l, none) := by
  rw [LoopRegs.check, if_neg (mt (s.ends_iff l).mpr h)]

/-- Away from a loop's end a sequential instruction only goes on (42 R300 step 5). -/
theorem retire_notAtLoopEnd {s : State} {len : Nat} (hfits : s.Fits len) (hend : s.NotAtLoopEnd) :
    retire len s = .next { s with pc := s.pc + BitVec.ofNat 32 len } := by
  obtain ⟨h0, h1⟩ := hend
  rw [retire, if_neg (Nat.not_le.mpr hfits)]
  simp only [State.loopCheck, LoopRegs.check_of_not_ends h0, LoopRegs.check_of_not_ends h1]

/-- Settles O26: past the loop check a conditional jump is a jump or goes on. -/
theorem conditionalJumps : Obligations.ConditionalJumps := by
  intro bp o s hend taken
  have hif : ∀ b, jumpIf s b o = if b then s.jumpTo (s.pc + branchOffset o) else retire 2 s :=
    fun b => notAtLoopEnd_pass hend _
  have hcc : exec (.jumpIfCc bp o) s = jumpIf s s.astat.cc o := rfl
  have hncc : exec (.jumpIfNotCc bp o) s = jumpIf s (!s.astat.cc) o := rfl
  have htaken : s.jumpTo (s.pc + branchOffset o) = taken := by
    rw [add_branchOffset_eq_ofInt]
    rfl
  refine ⟨fun h => ?_, fun h => ?_, fun hfits h => ?_, fun hfits h => ?_⟩
  · rw [hcc, hif, h]; exact htaken
  · rw [hncc, hif, h]; exact htaken
  · rw [hcc, hif, h]; exact retire_notAtLoopEnd hfits hend
  · rw [hncc, hif, h]; exact retire_notAtLoopEnd hfits hend

/-- Settles O27: the three calls are one `callTo`, each with its length and its target. -/
theorem calls : Obligations.Calls := by
  intro pn o s hend
  have hcall : ∀ len target, callTo s len target = .next { s with rets := s.pc + len, pc := target } :=
    fun len target => notAtLoopEnd_pass hend _
  refine ⟨?_, hcall _ _, ?_⟩
  · rw [← add_branchOffset_eq_ofInt]; exact hcall _ _
  · rw [ofNat_toNat_add]; exact hcall _ _

/-- Settles O38: the units of each offset. -/
theorem offsetAddresses : Obligations.OffsetAddresses := by
  intro s pp o4 o5 o16 z
  have hstep : z.step = BitVec.ofNat 32 z.bytes := by cases z <;> rfl
  refine ⟨?_, ?_, ?_⟩
  · rw [shortAddress, hstep, zext_eq_ofNat, BitVec.ofNat_add, BitVec.ofNat_mul, BitVec.ofNat_toNat, BitVec.ofNat_toNat,
      BitVec.setWidth_eq, BitVec.mul_comm]
  · rw [longAddress, hstep, sext_eq_ofInt, BitVec.ofInt_add, BitVec.ofInt_mul, BitVec.ofInt_toInt, BitVec.ofInt_natCast,
      BitVec.mul_comm]
  · have hk : ((o5.toNat : Int) - 32) * 4 = (o5.toNat : Int) * 4 + (-128) := by omega
    rw [frameAddress, framePointerOffset, zext_eq_ofNat, hk, BitVec.ofInt_add, BitVec.ofInt_add, BitVec.ofInt_mul,
      BitVec.ofInt_toInt, BitVec.ofInt_natCast, BitVec.sub_eq_add_neg]
    rfl

/-! ### The level in service (60 R441, R443) -/

theorem currentLevel_of_inService {s : State} {k : Nat} (h : s.InService k) : currentLevel s.ipend = k := by
  obtain ⟨hk, h4, hbit, hbelow⟩ := h
  apply Nat.le_antisymm
  · by_contra hgt
    have := (lt_currentLevel hk).mp (Nat.not_le.mp hgt) k le_rfl h4
    rw [hbit] at this
    cases this
  · cases k with
    | zero => exact Nat.zero_le _
    | succ j => exact (lt_currentLevel (by omega)).mpr fun i hi => hbelow i (by omega)

/-- With an event in service, but for the lowest, the mode is not User mode (60 R421). -/
theorem mode_ne_user_of_inService {s : State} {k : Nat} (h : s.InService k) : s.mode ≠ .user := by
  obtain ⟨hk, h4, hbit, -⟩ := h
  intro hu
  rw [(modeFollowsIpend s).2.2.mp hu k (by omega) h4] at hbit
  cases hbit

theorem eventReturn_even {s : State} {ra ip : Word} (h : ra.toNat % 2 = 0) :
    eventReturn s ra ip = .next { s with ipend := ip, pc := ra } := by
  rw [eventReturn, bit_zero_even h]; rfl

theorem bit_zero_odd {a : Word} (h : a.toNat % 2 = 1) : bit a 0 = true := by
  rw [bit_eq_decide, decide_eq_true_iff]; omega

theorem eventReturn_odd {s : State} {ra ip : Word} (h : ra.toNat % 2 = 1) :
    eventReturn s ra ip = .refused .oddReturn := by
  rw [eventReturn, bit_zero_odd h]; rfl

/-- Past both checks of a Supervisor-only instruction that breaks the flow. -/
theorem checks_pass {s : State} (hmode : s.mode ≠ .user) (hend : s.NotAtLoopEnd) (k : Result) :
    supervisorOnly s (notAtLoopEnd s k) = k :=
  (supervisorOnly_pass hmode _).trans (notAtLoopEnd_pass hend k)

theorem clearBit_clearBit_four (w : Word) (k : Nat) :
    clearBit (clearBit w k) 4 = w &&& ~~~(BitVec.ofNat 32 (2 ^ k) ||| 0x10#32) := by
  rw [clearBit, clearBit, one_shiftLeft, BitVec.and_assoc, BitVec.not_or]; rfl

/-- Settles O30: the level in service decides which return passes. -/
theorem eventReturns : Obligations.EventReturns := by
  intro k s hk h0 hend
  have hcur := currentLevel_of_inService hk
  have hpass := checks_pass (mode_ne_user_of_inService hk) hend
  have hk16 : k < 16 := hk.1
  have hrti : exec .rti s = if k = 1 ∨ (5 ≤ k ∧ k ≤ 15) then
      eventReturn s s.reti (s.ipend &&& ~~~(BitVec.ofNat 32 (2 ^ k) ||| 0x10#32)) else .refused .returnLevel := by
    rw [← clearBit_clearBit_four, ← hcur]; exact hpass _
  have hrtx : exec .rtx s = if k = 3 then eventReturn s s.retx (clearBit s.ipend 3) else .refused .returnLevel := by
    rw [← hcur]; exact hpass _
  have hrtn : exec .rtn s = if k = 2 then eventReturn s s.retn (clearBit s.ipend 2) else .refused .returnLevel := by
    rw [← hcur]; exact hpass _
  refine ⟨fun hint => ?rti, fun hexc => ?rtx, fun hnmi => ?rtn⟩
  case rti =>
    rw [hrti, hrtx, hrtn, if_pos (by omega), if_neg (by omega), if_neg (by omega)]
    exact ⟨eventReturn_even, eventReturn_odd, rfl, rfl⟩
  case rtx =>
    rw [hrti, hrtx, hrtn, if_pos hexc, if_neg (by omega), if_neg (by omega)]
    exact ⟨eventReturn_even, eventReturn_odd, rfl, rfl⟩
  case rtn =>
    rw [hrti, hrtx, hrtn, if_pos hnmi, if_neg (by omega), if_neg (by omega)]
    exact ⟨eventReturn_even, eventReturn_odd, rfl, rfl⟩

/-- Settles O31: past the checks RTE looks at the mode. -/
theorem emulationInstructions : Obligations.EmulationInstructions := by
  intro s
  have hrte (hmode : s.mode ≠ .user) (hend : s.NotAtLoopEnd) : exec .rte s = match s.mode with
      | .emulation => eventReturn s s.rete (clearBit s.ipend 0)
      | .supervisor | .user => .refused .emulation := checks_pass hmode hend _
  refine ⟨rfl, fun hend => ⟨fun hm heven => ?_, fun hm => ?_⟩⟩
  · rw [hrte (by rw [hm]; decide) hend, hm]
    exact eventReturn_even heven
  · rw [hrte (by rw [hm]; decide) hend, hm]

/-! ### RAISE, CLI and STI -/

/-- Settles O32. -/
theorem raiseLatches : Obligations.RaiseLatches := by
  intro n s hmode hend
  have hexec : exec (.raise n) s = _ := checks_pass hmode hend _
  rw [hexec]
  refine ⟨fun hn hfits => ?_, fun hn => if_pos hn, fun hn => ?_⟩
  · have h1 : n ≠ 1#4 := by rintro rfl; revert hn; decide
    have h034 : ¬ (n = 0#4 ∨ n = 3#4 ∨ n = 4#4) := by rintro (rfl | rfl | rfl) <;> (revert hn; decide)
    rw [if_neg h1, if_neg h034, setBit, one_shiftLeft]
    exact completes_retire s _ 2 hfits rfl rfl
  · have h1 : n ≠ 1#4 := by rintro rfl; revert hn; decide
    rw [if_neg h1, if_pos hn]

/-- A value of 16 bits sets none of the reserved bits (10 R74). -/
theorem and_high_eq_zero (v : Word) : v &&& 0xFFFF0000#32 = 0#32 ↔ v.toNat < 2 ^ 16 :=
  above_zero 16 v 0xFFFF#32 (by decide)

/-- Settles O34. -/
theorem interruptMask : Obligations.InterruptMask := by
  intro rd s hmode hend v
  have hcli : exec (.cli rd) s = retire 2 { s.setD rd s.imask with imask := imaskOf 0#32 } := checks_pass hmode hend _
  have hsti : exec (.sti rd) s = finish s 2 (checkReserved v 0xFFFF0000#32 { s with imask := imaskOf v }) :=
    checks_pass hmode hend _
  refine ⟨fun hfits => ?_, fun hfits hv => ?_, fun hv => ?_⟩
  · rw [hcli]
    exact completes_retire s _ 2 hfits rfl rfl
  · rw [hsti, checkReserved, if_neg (not_not.mpr ((and_high_eq_zero v).mpr hv))]
    exact completes_retire s _ 2 hfits rfl rfl
  · rw [hsti, checkReserved, if_pos (mt (and_high_eq_zero v).mp (Nat.not_lt.mpr hv))]
    rfl

/-! ### Supervisor-only instructions in User mode (42 R350) -/

theorem canTrap_of_user {s : State} (h : s.mode = .user) : s.CanTrap :=
  (currentLevel_gt_three s.ipend).mp ((lt_currentLevel (by decide)).mpr fun j hj h4 =>
    (modeFollowsIpend s).2.2.mp h j (by omega) h4)

theorem takeException_user {s : State} (h : s.mode = .user) :
    takeException s .illegalSupervisor = .next (s.trapped 0x2E#6 s.pc) :=
  (takeException_eq s .illegalSupervisor).1 (canTrap_of_user h)

theorem supervisorOnly_user {s : State} (h : s.mode = .user) (k : Result) :
    supervisorOnly s k = .next (s.trapped 0x2E#6 s.pc) := by
  rw [supervisorOnly, h]; exact takeException_user h

theorem checkPrivilege_user {s : State} {r : Reg} (h : s.mode = .user) (hr : regIsSupervisor r = true) :
    checkPrivilege s r = .trap .illegalSupervisor := if_pos ⟨hr, h⟩

/-- A move that names a group-7 register as either operand stops at its privilege check (41 R261). -/
theorem regMove_user {s : State} {dst src : Reg} (h : s.mode = .user) (hmov : dst.movable src = true)
    (hr : regIsSupervisor dst = true ∨ regIsSupervisor src = true) :
    exec (.regMove dst src) s = .next (s.trapped 0x2E#6 s.pc) := by
  refine (if_pos hmov).trans ?_
  by_cases hd : regIsSupervisor dst = true
  · rw [checkPrivilege_user h hd]
    exact takeException_user h
  · have hpass : checkPrivilege s dst = .ok () := if_neg fun g => hd g.1
    rw [hpass, Res.ok_bind, checkPrivilege_user h (hr.resolve_left hd)]
    exact takeException_user h

/-- So does a pop or a push of one, but for EMUDAT (43 R382). -/
theorem popReg_user {s : State} {r : Reg} (h : s.mode = .user) (hpop : r.poppable = true) (hr : regIsSupervisor r = true)
    (he : r ≠ .emudat) : exec (.popReg r) s = .next (s.trapped 0x2E#6 s.pc) := by
  show execPopReg r s = _
  rw [execPopReg, hpop, if_neg (by decide), if_neg he, checkPrivilege_user h hr]
  exact takeException_user h

theorem pushReg_user {s : State} {r : Reg} (h : s.mode = .user) (hpush : r.pushable = true)
    (hr : regIsSupervisor r = true) (he : r ≠ .emudat) : exec (.pushReg r) s = .next (s.trapped 0x2E#6 s.pc) := by
  show execPushReg r s = _
  rw [execPushReg, hpush, if_neg (by decide), if_neg he, checkPrivilege_user h hr]
  exact takeException_user h

/-- Settles O36: each of these instructions makes its privilege check first. -/
theorem supervisorOnlyTraps : Obligations.SupervisorOnlyTraps := by
  intro i s hwf hi hu
  cases i
  case rti | rtx | rtn | rte | raise | cli | sti | idle => exact supervisorOnly_user hu _
  case regMove dst src =>
    simp only [isSupervisorOnly, Bool.and_eq_true, Bool.or_eq_true] at hi
    exact regMove_user hu hi.1 hi.2
  case popReg r =>
    simp only [isSupervisorOnly, Bool.and_eq_true, bne_iff_ne] at hi
    exact popReg_user hu hwf hi.1 hi.2
  case pushReg r =>
    simp only [isSupervisorOnly, Bool.and_eq_true, bne_iff_ne] at hi
    exact pushReg_user hu hwf hi.1 hi.2
  all_goals cases hi

end Sys2Proof.Machine
end

section
/-! PROOF. Register moves (41 R260 to R263), and the loop corner cases (42 R332). -/

namespace Sys2Proof.Machine

/-! ### A register as a destination -/

theorem writeLoop_free {s : State} {k : LoopNo} (l : LoopRegs) (h : ¬ s.Ends (s.getLoop k)) :
    writeLoop s k l = .ok (s.setLoop k l) := by
  rw [writeLoop, State.atEndOf, if_neg (mt (s.ends_iff _).mpr h)]

theorem writeLoop_ends {s : State} {k : LoopNo} (l : LoopRegs) (h : s.Ends (s.getLoop k)) :
    writeLoop s k l = .refused .loopCornerCase := by
  rw [writeLoop, State.atEndOf, if_pos ((s.ends_iff _).mp h)]

theorem evenLoopAddress_even {v : Word} (h : v.toNat % 2 = 0) (x : Res State) : evenLoopAddress v x = x := by
  rw [evenLoopAddress, bit_zero_even h]; rfl

theorem evenLoopAddress_odd {v : Word} (h : v.toNat % 2 = 1) (x : Res State) :
    evenLoopAddress v x = .refused .oddLoopAddress := by
  rw [evenLoopAddress, bit_zero_odd h]; rfl

/-- ASTAT takes a word without reserved bits whose copy bits agree (41 R263). -/
theorem Astat.ofWord_eq (v : Word) : Astat.ofWord v =
    if v &&& ~~~astatMask ≠ 0#32 then .refused .reservedBitWrite
    else if v.getLsbD 2 = v.getLsbD 12 ∧ v.getLsbD 3 = v.getLsbD 24 then .ok (.ofFields v)
    else .refused .astatCopyBits := by
  unfold Astat.ofWord bit
  split_ifs <;> first | rfl | simp_all

/-- A register takes the values that the rules accept (41 R262, R263). -/
theorem writeReg_accepts {s : State} {r : Reg} {v : Word} (h : s.Accepts r v) : writeReg s r v = .ok (s.withReg r v) := by
  cases r
  case seqstat | emudat => exact h.elim
  case astat =>
    obtain ⟨hmask, hac0, hv⟩ := h
    rw [writeReg, Astat.ofWord_eq, if_neg (not_not.mpr hmask), if_pos ⟨hac0, hv⟩]
    rfl
  case syscfg =>
    have hv : syscfgAccepts v = true := by simpa [syscfgAccepts, State.Accepts] using h
    exact if_pos hv
  case lc k => rw [writeReg, writeLoop_free _ h]; cases k <;> rfl
  case lt k | lb k =>
    obtain ⟨heven, hend⟩ := h
    rw [writeReg, evenLoopAddress_even heven, writeLoop_free _ hend]
    cases k <;> rfl
  all_goals rfl

/-! ### Moves -/

/-- A move that its privilege checks let through reads the source and writes the destination (41 R262). -/
theorem exec_regMove {s : State} {dst src : Reg} (hmov : dst.movable src = true) (hd : s.mayName dst = true)
    (hs : s.mayName src = true) :
    exec (.regMove dst src) s = finish s 2 ((readReg s src).bind fun x => writeReg x.2 dst x.1) := by
  refine (if_pos hmov).trans ?_
  rw [checkPrivilege_mayName s dst hd, Res.ok_bind, checkPrivilege_mayName s src hs, Res.ok_bind]

theorem State.withReg_pc (s : State) (r : Reg) (v : Word) : (s.withReg r v).pc = s.pc := by
  cases r
  case gen g => exact s.setGen_pc g v
  case lc k | lt k | lb k => cases k <;> rfl
  all_goals rfl

theorem State.withReg_mem (s : State) (r : Reg) (v : Word) : (s.withReg r v).mem = s.mem := by
  cases r
  case gen g => exact s.setGen_mem g v
  case lc k | lt k | lb k => cases k <;> rfl
  all_goals rfl

/-- A free value taken by a read leaves what the registers accept. -/
theorem State.Accepts.afterRead {s : State} {r src : Reg} {v : Word} (h : s.Accepts r v) :
    (s.afterRead src).Accepts r v := by
  rw [s.afterRead_draws]
  cases r
  case lc k | lt k | lb k => cases k <;> exact h
  all_goals exact h

/-- Settles O23: a listed pair with a source that has a value and a destination that takes it. -/
theorem registerMoves : Obligations.RegisterMoves := by
  intro dst src s hfits hmov hd hs hne hacc
  rw [exec_regMove hmov hd hs, readReg_valueOf s src hne, Res.ok_bind, writeReg_accepts hacc.afterRead]
  refine completes_retire s _ 2 hfits ?_ ?_
  · rw [State.withReg_pc, s.afterRead_draws]
  · rw [State.withReg_mem, s.afterRead_draws]

/-- The registers that are neither a general register nor part of an accumulator pair with every data and pointer register
(41 R260). -/
theorem movable_from_dp {r : Reg} {g : GenReg} (hg : (Reg.gen g).isDP = true) (hr : r.isAccPart = false) :
    r.movable (.gen g) = true ∧ (Reg.gen g).movable r = true := by
  have hgen : (Reg.gen g).isAccPart = false := rfl
  simp [Reg.movable, hg, hr, hgen]

/-- A move from a data or pointer register is the write of its destination. -/
theorem exec_regMove_gen {s : State} {d : Reg} {g : GenReg} (hg : (Reg.gen g).isDP = true) (hd : d.isAccPart = false)
    (hname : s.mayName d = true) : exec (.regMove d (.gen g)) s = finish s 2 (writeReg s d (s.getGen g)) :=
  exec_regMove (movable_from_dp hg hd).1 hname rfl

theorem mayName_of_mode {s : State} (h : s.mode ≠ .user) (r : Reg) : s.mayName r = true := by
  simp [State.mayName, h]

/-- Settles O24: each refusal is the one its destination makes of the value. -/
theorem refusedMoves : Obligations.RefusedMoves := by
  intro dst src k g s v from'
  refine ⟨fun h => ?unlisted, fun hg => ⟨fun hm => ⟨?seqstat, ?toEmudat, ?ofEmudat, fun hv => ?syscfg⟩,
    fun hodd => ⟨?lt, ?lb⟩, fun hres => ?reserved, fun hmask hv => ?copies⟩⟩
  case unlisted => exact if_neg (by rw [h]; decide)
  case seqstat | toEmudat => exact exec_regMove_gen hg rfl (mayName_of_mode hm _)
  case ofEmudat => exact exec_regMove (movable_from_dp hg rfl).2 rfl (mayName_of_mode hm _)
  case syscfg =>
    have hno : ¬ syscfgAccepts v = true := by simpa [syscfgAccepts, State.Accepts] using hv
    exact (exec_regMove_gen hg rfl (mayName_of_mode hm _)).trans (congrArg (finish s 2) (if_neg hno))
  case lt | lb =>
    exact (exec_regMove_gen hg rfl rfl).trans (congrArg (finish s 2) (evenLoopAddress_odd hodd _))
  case reserved =>
    refine (exec_regMove_gen hg rfl rfl).trans ?_
    rw [writeReg, Astat.ofWord_eq, if_pos hres]; rfl
  case copies =>
    refine (exec_regMove_gen hg rfl rfl).trans ?_
    rw [writeReg, Astat.ofWord_eq, if_neg (not_not.mpr hmask), if_neg fun h => hv ⟨hmask, h⟩]; rfl

/-! ### Loop corner cases -/

theorem atLoopEnd_of {s : State} (h : ¬ s.NotAtLoopEnd) : s.atLoopEnd = true := by
  rwa [← Bool.not_eq_false, s.atLoopEnd_eq_false]

theorem notAtLoopEnd_stop {s : State} (h : ¬ s.NotAtLoopEnd) (k : Result) :
    notAtLoopEnd s k = .refused .loopCornerCase := by
  rw [notAtLoopEnd, atLoopEnd_of h, if_pos rfl]

/-- A pop whose stack holds a value is the write of its register (43 R381). -/
theorem exec_popReg {s : State} {r : Reg} {v : Word} (hpop : r.poppable = true) (he : r ≠ .emudat)
    (hname : s.mayName r = true) (hl : s.Loads s.sp 4 v) :
    exec (.popReg r) s =
      finish s 2 ((writeReg s r v).bind fun t => .ok ((t.setSp (s.sp + 4#32)).afterPop r)) := by
  show execPopReg r s = _
  rw [execPopReg, hpop, if_neg (by decide), if_neg he, checkPrivilege_mayName s r hname, Res.ok_bind,
    memRead_loads s s.sp .word v hl, Res.ok_bind]

/-- An instruction that breaks the flow makes the loop check, after its privilege check where it has one. -/
theorem breaksLoop_stop {i : Instr} {s : State} (hi : breaksLoop i = true) (hend : ¬ s.NotAtLoopEnd)
    (hmode : isSupervisorOnly i = true → s.mode ≠ .user) : exec i s = .refused .loopCornerCase := by
  cases i
  case rti | rtx | rtn | rte | raise | cli | sti | idle =>
    exact (supervisorOnly_pass (hmode rfl) _).trans (notAtLoopEnd_stop hend _)
  case jumpShort | jumpLong | jumpReg | jumpPcReg | jumpIfCc | jumpIfNotCc | callLong | callReg | callPcReg | rts | excpt =>
    exact notAtLoopEnd_stop hend _
  case lsetup | lsetupP | lsetupPHalf =>
    exact if_pos (.inr (.inr (.inr (atLoopEnd_of hend))))
  all_goals cases hi

/-- The last instruction of an active loop writes none of that loop's registers (42 R332 (d)). -/
theorem writeReg_loop_ends {s : State} {k : LoopNo} (h : s.Ends (s.getLoop k)) (v : Word) :
    writeReg s (.lc k) v = .refused .loopCornerCase ∧
      (v.toNat % 2 = 0 → writeReg s (.lt k) v = .refused .loopCornerCase ∧
        writeReg s (.lb k) v = .refused .loopCornerCase) :=
  ⟨writeLoop_ends _ h, fun heven => ⟨(evenLoopAddress_even heven _).trans (writeLoop_ends _ h),
    (evenLoopAddress_even heven _).trans (writeLoop_ends _ h)⟩⟩

/-- Settles O29: the setups, the instructions that break the flow, the writes to the loop's registers. -/
theorem loopCorners : Obligations.LoopCorners := by
  intro s
  refine ⟨fun c so eo pp => ⟨fun h => ?place, fun h => ?zero, fun h => ?half⟩, fun i => breaksLoop_stop,
    fun k g v hk => ⟨fun hg => ?move, fun hl => ?pop⟩⟩
  case place =>
    have hstop (count : Option Word) : loopSetup s c so eo count = .refused .loopCornerCase :=
      if_pos (h.imp_right .inl)
    exact ⟨hstop _, hstop _, hstop _⟩
  case zero => exact if_pos (.inr (.inr (.inl (congrArg some h))))
  case half =>
    have hzero : s.getP pp >>> 1 = 0#32 := by bv_omega
    exact if_pos (.inr (.inr (.inl (congrArg some hzero))))
  case move =>
    obtain ⟨hlc, hevens⟩ := writeReg_loop_ends hk (s.getGen g)
    refine ⟨?_, fun heven => ⟨?_, ?_⟩⟩
    · rw [exec_regMove_gen hg rfl rfl, hlc]; rfl
    · rw [exec_regMove_gen hg rfl rfl, (hevens heven).1]; rfl
    · rw [exec_regMove_gen hg rfl rfl, (hevens heven).2]; rfl
  case pop =>
    obtain ⟨hlc, hevens⟩ := writeReg_loop_ends hk v
    refine ⟨?_, fun heven => ⟨?_, ?_⟩⟩
    · rw [exec_popReg (r := .lc k) rfl nofun rfl hl, hlc]; rfl
    · rw [exec_popReg (r := .lt k) rfl nofun rfl hl, (hevens heven).1]; rfl
    · rw [exec_popReg (r := .lb k) rfl nofun rfl hl, (hevens heven).2]; rfl

end Sys2Proof.Machine
end

section
/-! PROOF. Loads and stores through pointer and index registers (43 R361 to R376, R404 to R406). -/

namespace Sys2Proof.Machine

/-! ### Pointers that move -/

/-- A pointer written with its own value keeps. -/
theorem State.setP_getP (s : State) (n : PReg) : s.setP n (s.getP n) = s := by
  cases n
  case sp =>
    show s.setSp s.sp = s
    unfold State.setSp State.sp
    cases s.mode <;> rfl
  all_goals rfl

/-- The form `[Pp]` moves its pointer by 0. -/
theorem State.setD_setP_zero (s : State) (rr : DReg) (v : Word) (pp : PReg) :
    (s.setD rr v).setP pp (s.getP pp + 0#32) = s.setD rr v := by
  rw [BitVec.add_zero, ← s.getP_setD rr v pp]
  exact State.setP_getP _ pp

theorem State.setP_zero (s : State) (pp : PReg) : s.setP pp (s.getP pp + 0#32) = s := by
  rw [BitVec.add_zero, s.setP_getP]

theorem State.withMmr_mode (s : State) (m : CoreMmr) (v : Word) : (s.withMmr m v).mode = s.mode := by
  cases m <;> rfl

/-- A pointer is written beside a store to memory. -/
theorem State.setP_withMem (s : State) (n : PReg) (v : Word) (m : Memory) (st : AddrSet) :
    State.setP { s with mem := m, stored := st } n v = { s.setP n v with mem := m, stored := st } := by
  cases n
  case sp =>
    show State.setSp _ v = _
    unfold State.setP State.setSp
    rw [show State.mode { s with mem := m, stored := st } = s.mode from rfl]
    cases s.mode <;> rfl
  all_goals rfl

/-- A pointer is written beside a store to a memory-mapped register. -/
theorem State.setP_withMmr (s : State) (n : PReg) (v : Word) (m : CoreMmr) (w : Word) :
    (s.withMmr m w).setP n v = (s.setP n v).withMmr m w := by
  cases n
  case sp =>
    show State.setSp _ v = (s.setSp v).withMmr m w
    unfold State.setSp
    rw [s.withMmr_mode]
    cases s.mode <;> cases m <;> rfl
  all_goals cases m <;> rfl

/-! ### Extensions and halves of a loaded value -/

theorem sextLow_eq (v : Word) : sextLow v = BitVec.ofInt 32 (v.setWidth 16).toInt := sext_extractLow v 16 (by decide)

theorem sextByteOf_eq (v : Word) : sextByteOf v = BitVec.ofInt 32 (v.setWidth 8).toInt := sext_extractLow v 8 (by decide)

/-- A load of two bytes gives a value of 16 bits. -/
theorem State.Loads.half_lt {s : State} {a v : Word} (h : s.Loads a 2 v) : v.toNat < 2 ^ 16 := by
  obtain ⟨-, -, -, hv⟩ | ⟨-, h4, -⟩ := h
  · exact hv
  · cases h4

theorem lowHalf_toNat {v : Word} (h : v.toNat < 2 ^ 16) : (lowHalf v).toNat = v.toNat := by
  rw [lowHalf, BitVec.extractLsb'_toNat, Nat.shiftRight_zero, Nat.mod_eq_of_lt h]

theorem withLow_loaded {v : Word} (d : Word) (h : v.toNat < 2 ^ 16) :
    withLow d (lowHalf v) = BitVec.ofNat 32 (d.toNat / 2 ^ 16 * 2 ^ 16 + v.toNat) := by
  rw [withLow_eq_ofNat, lowHalf_toNat h]

theorem withHigh_loaded {v : Word} (d : Word) (h : v.toNat < 2 ^ 16) :
    withHigh d (lowHalf v) = BitVec.ofNat 32 (v.toNat * 2 ^ 16 + d.toNat % 2 ^ 16) := by
  rw [withHigh_eq_ofNat, lowHalf_toNat h]

theorem zext_highHalf_eq (d : Word) : zext (highHalf d) = BitVec.ofNat 32 (d.toNat / 2 ^ 16) := by
  rw [zext_highHalf, ushiftRight_eq_ofNat]

/-! ### The shared loads -/

section

variable {s : State} {v w : Word} {z : Size} {len : Nat}

/-- A load through a pointer that moves (43 R362, R364, R365); `x` is the extended value as the rule writes it. -/
theorem completes_loadD (hfits : s.Fits 2) {pp : PReg} (hl : s.Loads (s.getP pp) z.bytes v) (m : Word)
    {ext : Word → Word} {x : Word} (hx : ext v = x) (rr : DReg) :
    Completes (loadD s pp m z ext rr) s ((s.setD rr x).setP pp (s.getP pp + m)) 2 := by
  subst hx
  exact load_completes s 2 _ z v _ hfits hl (by simp) (by simp)

/-- The three forms of one load through a pointer: plain, moving up, moving down. -/
theorem completes_loadD_forms (hfits : s.Fits 2) {pp : PReg} (hl : s.Loads (s.getP pp) z.bytes v)
    {ext : Word → Word} {x : Word} (hx : ext v = x) (rr : DReg) :
    Completes (loadD s pp 0#32 z ext rr) s (s.setD rr x) 2 ∧
      Completes (loadD s pp z.step z ext rr) s ((s.setD rr x).setP pp (s.getP pp + z.step)) 2 ∧
      Completes (loadD s pp (-z.step) z ext rr) s ((s.setD rr x).setP pp (s.getP pp - z.step)) 2 := by
  refine ⟨?_, completes_loadD hfits hl _ hx rr, ?_⟩
  · rw [← s.setD_setP_zero rr x pp]; exact completes_loadD hfits hl _ hx rr
  · rw [BitVec.sub_eq_add_neg]; exact completes_loadD hfits hl _ hx rr

/-- A load of a pointer through another pointer that moves (43 R363). -/
theorem completes_loadPMoving (hfits : s.Fits 2) {pr pp : PReg} (hne : pr ≠ pp) (hl : s.Loads (s.getP pp) 4 v) (m : Word) :
    Completes (loadPMoving s pp m pr) s ((s.setP pr v).setP pp (s.getP pp + m)) 2 := by
  rw [loadPMoving, if_neg hne]
  exact load_completes s 2 _ .word v _ hfits hl (by simp) (by simp)

/-- Loads at a computed address (43 R368 to R375). -/
theorem completes_loadDAt (hfits : s.Fits len) {a : Word} (hl : s.Loads a z.bytes v) {ext : Word → Word} {x : Word}
    (hx : ext v = x) (rr : DReg) : Completes (loadDAt s len a z ext rr) s (s.setD rr x) len := by
  subst hx
  exact load_completes s len _ z v _ hfits hl rfl rfl

theorem completes_loadPAt (hfits : s.Fits len) {a : Word} (hl : s.Loads a 4 v) (pr : PReg) :
    Completes (loadPAt s len a pr) s (s.setP pr v) len :=
  load_completes s len _ .word v _ hfits hl (s.setP_pc pr v) (s.setP_mem pr v)

end

/-- Settles O37, width by width. -/
theorem loadsThroughPointers : Obligations.LoadsThroughPointers := by
  intro rr pr pp v s hfits a sx16 sx8
  refine ⟨fun hl => completes_loadD_forms (z := .word) hfits hl rfl rr, fun hl => ?half, fun hl => ?byte, fun hl => ?plain,
    fun hl hne => ⟨completes_loadPMoving hfits hne hl _, ?down⟩, fun he => ⟨if_pos he, if_pos he⟩⟩
  case half =>
    obtain ⟨z0, zi, zd⟩ := completes_loadD_forms (z := .half) hfits hl (ext := id) rfl rr
    obtain ⟨x0, xi, xd⟩ := completes_loadD_forms (z := .half) hfits hl (sextLow_eq v) rr
    exact ⟨z0, zi, zd, x0, xi, xd⟩
  case byte =>
    obtain ⟨z0, zi, zd⟩ := completes_loadD_forms (z := .byte) hfits hl (ext := id) rfl rr
    obtain ⟨x0, xi, xd⟩ := completes_loadD_forms (z := .byte) hfits hl (sextByteOf_eq v) rr
    exact ⟨z0, zi, zd, x0, xi, xd⟩
  case plain => exact completes_loadPAt hfits hl pr
  case down =>
    rw [BitVec.sub_eq_add_neg]
    exact completes_loadPMoving hfits hne hl _

/-- Settles O39: each form is one of two loads at its address. -/
theorem loadsWithOffset : Obligations.LoadsWithOffset := by
  intro rr pr pp o4 o5 o16 v s sx16 sx8
  refine ⟨fun hfits => ⟨fun hl => ?_, fun hl => ?_, fun hl => ?_⟩, fun hfits => ⟨fun hl => ?_, fun hl => ?_, fun hl => ?_⟩⟩
  · exact ⟨completes_loadDAt (z := .word) hfits hl rfl rr, completes_loadPAt hfits hl pr⟩
  · exact ⟨completes_loadDAt (z := .half) hfits hl rfl rr, completes_loadDAt (z := .half) hfits hl (sextLow_eq v) rr⟩
  · exact ⟨completes_loadDAt (z := .word) hfits hl rfl rr, completes_loadPAt hfits hl pr⟩
  · exact ⟨completes_loadDAt (z := .word) hfits hl rfl rr, completes_loadPAt hfits hl pr⟩
  · exact ⟨completes_loadDAt (z := .half) hfits hl rfl rr, completes_loadDAt (z := .half) hfits hl (sextLow_eq v) rr⟩
  · exact ⟨completes_loadDAt (z := .byte) hfits hl rfl rr, completes_loadDAt (z := .byte) hfits hl (sextByteOf_eq v) rr⟩

/-! ### The shared stores -/

section

variable {s : State} {len : Nat} {z : Size}

/-- A store through a pointer that moves (43 R366, R367). -/
theorem stores_storeMoving (hfits : s.Fits 2) (pp : PReg) (m v : Word) :
    StoresWord (storeMoving s pp m .word v) s (s.setP pp (s.getP pp + m)) 2 (s.getP pp) v :=
  store_word s _ 2 _ v _ hfits (by simp) (by simp) (fun _ _ => s.setP_withMem pp _ _ _) (fun _ _ => s.setP_withMmr pp _ _ _)

theorem completes_storeMoving (hfits : s.Fits 2) {pp : PReg} (hc : s.CanStore (s.getP pp) z.bytes) (m v : Word) :
    CompletesStoring (storeMoving s pp m z v) s (s.setP pp (s.getP pp + m)) 2 (s.getP pp).toNat z.bytes v :=
  store_completes s _ 2 _ z v _ hfits hc (by simp) fun _ _ => s.setP_withMem pp _ _ _

/-- The three forms of one store through a pointer: plain, moving up, moving down. -/
theorem stores_storeMoving_forms (hfits : s.Fits 2) (pp : PReg) (v : Word) :
    StoresWord (storeMoving s pp 0#32 .word v) s s 2 (s.getP pp) v ∧
      StoresWord (storeMoving s pp Size.word.step .word v) s (s.setP pp (s.getP pp + 4#32)) 2 (s.getP pp) v ∧
      StoresWord (storeMoving s pp (-Size.word.step) .word v) s (s.setP pp (s.getP pp - 4#32)) 2 (s.getP pp) v := by
  have hplain := stores_storeMoving hfits pp 0#32 v
  rw [s.setP_zero] at hplain
  rw [BitVec.sub_eq_add_neg]
  exact ⟨hplain, stores_storeMoving hfits pp _ v, stores_storeMoving hfits pp _ v⟩

theorem completes_storeMoving_forms (hfits : s.Fits 2) {pp : PReg} (hc : s.CanStore (s.getP pp) z.bytes) (v : Word) :
    CompletesStoring (storeMoving s pp 0#32 z v) s s 2 (s.getP pp).toNat z.bytes v ∧
      CompletesStoring (storeMoving s pp z.step z v) s (s.setP pp (s.getP pp + z.step)) 2 (s.getP pp).toNat z.bytes v ∧
      CompletesStoring (storeMoving s pp (-z.step) z v) s (s.setP pp (s.getP pp - z.step)) 2 (s.getP pp).toNat z.bytes
        v := by
  have hplain := completes_storeMoving hfits hc 0#32 v
  rw [s.setP_zero] at hplain
  rw [BitVec.sub_eq_add_neg]
  exact ⟨hplain, completes_storeMoving hfits hc _ v, completes_storeMoving hfits hc _ v⟩

/-- Stores at a computed address (43 R371 to R375). -/
theorem stores_storeAt (hfits : s.Fits len) (a v : Word) : StoresWord (storeAt s len a .word v) s s len a v :=
  store_word s s len a v _ hfits rfl rfl (fun _ _ => rfl) fun _ _ => rfl

theorem completes_storeAt (hfits : s.Fits len) {a : Word} (hc : s.CanStore a z.bytes) (v : Word) :
    CompletesStoring (storeAt s len a z v) s s len a.toNat z.bytes v :=
  store_completes s s len a z v _ hfits hc rfl fun _ _ => rfl

end

/-- Settles O40, register file by register file and width by width. -/
theorem storesThroughPointers : Obligations.StoresThroughPointers := by
  intro rr pr pp s hfits a d
  obtain ⟨d0, di, dd⟩ := stores_storeMoving_forms hfits pp d
  obtain ⟨p0, pi, pd⟩ := stores_storeMoving_forms hfits pp (s.getP pr)
  exact ⟨d0, di, dd, p0, pi, pd, fun hc => completes_storeMoving_forms (z := .half) hfits hc d,
    fun hc => completes_storeMoving_forms (z := .byte) hfits hc d⟩

/-- Settles O41: each form is one store at its address. -/
theorem storesWithOffset : Obligations.StoresWithOffset := by
  intro rr pr pp o4 o5 o16 s d
  refine ⟨fun hfits => ⟨stores_storeAt hfits _ _, stores_storeAt hfits _ _, stores_storeAt hfits _ _,
    stores_storeAt hfits _ _, fun hc => ?_⟩, fun hfits => ⟨stores_storeAt hfits _ _, stores_storeAt hfits _ _,
    fun hc => ?_, fun hc => ?_⟩⟩
  · exact completes_storeAt (z := .half) hfits hc d
  · exact completes_storeAt (z := .half) hfits hc d
  · exact completes_storeAt (z := .byte) hfits hc d

end Sys2Proof.Machine
end

section
/-! PROOF. Access through a pointer that a pointer moves (43 R376), and through index registers (43 R404 to R406). -/

namespace Sys2Proof.Machine

/-! ### A pointer moved by a pointer -/

section

variable {s : State} {pp pi : PReg} {v : Word} {z : Size}

theorem movePointer_other (h : pi ≠ pp) (t : State) : movePointer s t pp pi = t.setP pp (s.getP pp + s.getP pi) :=
  if_neg h

theorem movePointer_self (h : pi = pp) (t : State) : movePointer s t pp pi = t := if_pos h

/-- A load that moves its pointer, or keeps it where the index is the pointer; `k` writes the data register. -/
theorem completes_movePointer (hfits : s.Fits 2) (hl : s.Loads (s.getP pp) z.bytes v) (rr : DReg)
    (k : Word → State → Word) {x : Word} (hx : k v s = x) :
    Completes (load s 2 (s.getP pp) z fun v t => movePointer s (t.setD rr (k v t)) pp pi) s
      (movePointer s (s.setD rr x) pp pi) 2 := by
  subst hx
  refine load_completes s 2 _ z v _ hfits hl ?_ ?_ <;> by_cases h : pi = pp <;> simp [movePointer, h]

/-- A half word stored before the pointer moves, or keeps. -/
theorem completesStoring_movePointer (hfits : s.Fits 2) (hc : s.CanStore (s.getP pp) z.bytes) (v : Word) :
    CompletesStoring (store s 2 (s.getP pp) z v fun t => movePointer s t pp pi) s (movePointer s s pp pi) 2
      (s.getP pp).toNat z.bytes v := by
  by_cases h : pi = pp
  · simp only [movePointer_self h]
    exact store_completes s s 2 _ z v _ hfits hc rfl fun _ _ => rfl
  · simp only [movePointer_other h]
    exact store_completes s _ 2 _ z v _ hfits hc (by simp) fun _ _ => s.setP_withMem pp _ _ _

theorem storesWord_movePointer (hfits : s.Fits 2) (h : pi ≠ pp) (rr : DReg) :
    StoresWord (exec (.stPmod rr pp pi) s) s (s.setP pp (s.getP pp + s.getP pi)) 2 (s.getP pp) (s.getD rr) := by
  have hexec : exec (.stPmod rr pp pi) s = storeMoving s pp (s.getP pi) .word (s.getD rr) := by
    refine (if_neg h).trans ?_
    simp only [movePointer_other h]
    rfl
  rw [hexec]
  exact stores_storeMoving hfits pp _ _

theorem completes_loadPmodWhole (hfits : s.Fits 2) (h : pi ≠ pp) (hl : s.Loads (s.getP pp) z.bytes v)
    {ext : Word → Word} {x : Word} (hx : ext v = x) (rr : DReg) :
    Completes (loadPmodWhole s pp pi z ext rr) s ((s.setD rr x).setP pp (s.getP pp + s.getP pi)) 2 := by
  rw [loadPmodWhole, if_neg h, ← movePointer_other h]
  exact completes_movePointer hfits hl rr (fun v _ => ext v) hx

/-- The half-register loads, in terms of the pointer's move (43 R376). -/
theorem completes_ldPmodHalves (hfits : s.Fits 2) (hl : s.Loads (s.getP pp) 2 v) (rr : DReg) :
    Completes (exec (.ldPmodLo rr pp pi) s) s (movePointer s (s.setD rr
        (BitVec.ofNat 32 ((s.getD rr).toNat / 2 ^ 16 * 2 ^ 16 + v.toNat))) pp pi) 2 ∧
      Completes (exec (.ldPmodHi rr pp pi) s) s (movePointer s (s.setD rr
        (BitVec.ofNat 32 (v.toNat * 2 ^ 16 + (s.getD rr).toNat % 2 ^ 16))) pp pi) 2 :=
  ⟨completes_movePointer (z := .half) hfits hl rr (fun v t => withLow (t.getD rr) (lowHalf v))
      (withLow_loaded _ hl.half_lt),
    completes_movePointer (z := .half) hfits hl rr (fun v t => withHigh (t.getD rr) (lowHalf v))
      (withHigh_loaded _ hl.half_lt)⟩

/-- The half-register stores, in terms of the pointer's move (43 R376). -/
theorem completes_stPmodHalves (hfits : s.Fits 2) (hc : s.CanStore (s.getP pp) 2) (rr : DReg) :
    CompletesStoring (exec (.stPmodLo rr pp pi) s) s (movePointer s s pp pi) 2 (s.getP pp).toNat 2 (s.getD rr) ∧
      CompletesStoring (exec (.stPmodHi rr pp pi) s) s (movePointer s s pp pi) 2 (s.getP pp).toNat 2
        (BitVec.ofNat 32 ((s.getD rr).toNat / 2 ^ 16)) := by
  rw [← zext_highHalf_eq]
  exact ⟨completesStoring_movePointer (z := .half) hfits hc _, completesStoring_movePointer (z := .half) hfits hc _⟩

end

/-- Settles O42: the half forms move the pointer or keep it, the whole forms need two registers. -/
theorem pointerModifiedAccess : Obligations.PointerModifiedAccess := by
  intro rr pp pi v s hfits a d lo hi sx16 moved
  refine ⟨fun hne => ⟨fun hl => ?word, fun hl => ?halves, storesWord_movePointer hfits hne rr, fun hc => ?stores⟩,
    fun he => ⟨fun hl => ?keptLoads, fun hc => ?keptStores, if_pos he, if_pos he, if_pos he, if_pos he⟩⟩
  case word => exact completes_loadPmodWhole (z := .word) hfits hne hl rfl rr
  case halves =>
    obtain ⟨hlo, hhi⟩ := completes_ldPmodHalves (pi := pi) hfits hl rr
    rw [movePointer_other hne] at hlo hhi
    exact ⟨hlo, hhi, completes_loadPmodWhole (z := .half) hfits hne hl rfl rr,
      completes_loadPmodWhole (z := .half) hfits hne hl (sextLow_eq v) rr⟩
  case stores =>
    obtain ⟨hlo, hhi⟩ := completes_stPmodHalves (pi := pi) hfits hc rr
    rw [movePointer_other hne] at hlo hhi
    exact ⟨hlo, hhi⟩
  case keptLoads =>
    obtain ⟨hlo, hhi⟩ := completes_ldPmodHalves (pi := pi) hfits hl rr
    rw [movePointer_self he] at hlo hhi
    exact ⟨hlo, hhi⟩
  case keptStores =>
    obtain ⟨hlo, hhi⟩ := completes_stPmodHalves (pi := pi) hfits hc rr
    rw [movePointer_self he] at hlo hhi
    exact ⟨hlo, hhi⟩

/-! ### Index registers -/

section

variable {s : State} {i : Quad} {v w x : Word} {z : Size} {m : Int} {put : Word → Word → Word}

/-- A load that is done, and then the move of the index. -/
theorem loadI_loads (hl : s.Loads (s.i.get i) z.bytes v) (mv : Option Int) (rr : DReg) :
    loadI s i mv z put rr = finish s 2 (moveIndex s (s.setD rr (put (s.getD rr) v)) i mv) := by
  rw [loadI, memRead_loads s _ z v hl, Res.ok_bind]

/-- The plain form: `x` is the new value of the register as the rule writes it. -/
theorem completes_loadI (hfits : s.Fits 2) (hl : s.Loads (s.i.get i) z.bytes v) (rr : DReg)
    (hx : put (s.getD rr) v = x) : Completes (loadI s i none z put rr) s (s.setD rr x) 2 := by
  rw [loadI_loads hl, hx]
  exact completes_retire s _ 2 hfits rfl rfl

/-- Both outcomes of a moving form. -/
theorem loadI_outcomes (hfits : s.Fits 2) (hl : s.Loads (s.i.get i) z.bytes v) (rr : DReg)
    (hx : put (s.getD rr) v = x) (m : Int) :
    (s.IndexMoves i m w → Completes (loadI s i (some m) z put rr) s ((s.setD rr x).setI i w) 2) ∧
      (s.IndexCorner i m → loadI s i (some m) z put rr = .refused .circularCorner) := by
  rw [loadI_loads hl, hx]
  refine ⟨fun hm => ?_, fun hc => ?_⟩
  · rw [moveIndex_moves _ hm]
    exact completes_retire s _ 2 hfits rfl rfl
  · rw [moveIndex_corner s _ i m hc]; rfl

/-- A store and the move of the index that follows it, whatever the store leaves. -/
theorem storeI_moves (hm : s.IndexMoves i m w) (v : Word) :
    storeI s i (some m) z v = store s 2 (s.i.get i) z v fun t => t.setI i w := by
  simp only [storeI, store, moveIndex_moves _ hm]

theorem storeI_none (v : Word) : storeI s i none z v = storeAt s 2 (s.i.get i) z v := rfl

theorem setI_withMmr (s : State) (i : Quad) (w : Word) (m : CoreMmr) (v : Word) :
    (s.withMmr m v).setI i w = (s.setI i w).withMmr m v := by
  cases m <;> rfl

theorem stores_storeI (hfits : s.Fits 2) (hm : s.IndexMoves i m w) (v : Word) :
    StoresWord (storeI s i (some m) .word v) s (s.setI i w) 2 (s.i.get i) v := by
  rw [storeI_moves hm]
  exact store_word s _ 2 _ v _ hfits rfl rfl (fun _ _ => rfl) fun _ _ => setI_withMmr s i w _ _

theorem completes_storeI (hfits : s.Fits 2) (hc : s.CanStore (s.i.get i) z.bytes) (hm : s.IndexMoves i m w) (v : Word) :
    CompletesStoring (storeI s i (some m) z v) s (s.setI i w) 2 (s.i.get i).toNat z.bytes v := by
  rw [storeI_moves hm]
  exact store_completes s _ 2 _ z v _ hfits hc rfl fun _ _ => rfl

/-- A store that is done stops at the move of the index. -/
theorem storeI_corner {t : State} (hw : memWrite s (s.i.get i) z v = .ok t) (hc : s.IndexCorner i m) :
    storeI s i (some m) z v = .refused .circularCorner := by
  rw [storeI, hw, Res.ok_bind, moveIndex_corner s t i m hc]; rfl

theorem memWrite_takesWord {a : Word} (h : s.TakesWord a v) : ∃ t, memWrite s a .word v = .ok t := by
  obtain ⟨hc⟩ | ⟨hmode, m, ha, hv⟩ := h
  · exact ⟨_, memWrite_canStore s a .word v hc⟩
  · exact ⟨_, memWrite_mmr s a v m hmode ha hv⟩

/-- Both outcomes of a moving store of a word. -/
theorem storeI_word_outcomes (hfits : s.Fits 2) (m : Int) (v : Word) :
    (s.IndexMoves i m w → StoresWord (storeI s i (some m) .word v) s (s.setI i w) 2 (s.i.get i) v) ∧
      (s.IndexCorner i m → s.TakesWord (s.i.get i) v → storeI s i (some m) .word v = .refused .circularCorner) :=
  ⟨fun hm => stores_storeI hfits hm v, fun hc ht => (memWrite_takesWord ht).elim fun _ hw => storeI_corner hw hc⟩

/-- Both outcomes of a moving store of a half word. -/
theorem storeI_half_outcomes (hfits : s.Fits 2) (hcan : s.CanStore (s.i.get i) 2) (m : Int) (v : Word) :
    (s.IndexMoves i m w → CompletesStoring (storeI s i (some m) .half v) s (s.setI i w) 2 (s.i.get i).toNat 2 v) ∧
      (s.IndexCorner i m → storeI s i (some m) .half v = .refused .circularCorner) :=
  ⟨fun hm => completes_storeI (z := .half) hfits hcan hm v,
    fun hc => storeI_corner (memWrite_canStore s _ .half v hcan) hc⟩

end

/-- Settles O44: each form is one `loadI`, by its width, its move and the half it writes. -/
theorem indexLoads : Obligations.IndexLoads := by
  intro rr i m v w s hfits a d lo hi loads
  refine ⟨fun hl => ?word, fun hl => ?half⟩
  case word =>
    exact ⟨completes_loadI (z := .word) hfits hl rr rfl, loadI_outcomes (z := .word) hfits hl rr rfl _,
      loadI_outcomes (z := .word) hfits hl rr rfl _, loadI_outcomes (z := .word) hfits hl rr rfl _⟩
  case half =>
    have hlo : putLow (s.getD rr) v = _ := withLow_loaded _ hl.half_lt
    have hhi : putHigh (s.getD rr) v = _ := withHigh_loaded _ hl.half_lt
    exact ⟨completes_loadI (z := .half) hfits hl rr hlo, completes_loadI (z := .half) hfits hl rr hhi,
      loadI_outcomes (z := .half) hfits hl rr hlo _, loadI_outcomes (z := .half) hfits hl rr hlo _,
      loadI_outcomes (z := .half) hfits hl rr hhi _, loadI_outcomes (z := .half) hfits hl rr hhi _⟩

/-- Settles O45: each form is one `storeI`, by its width, its move and the half it stores. -/
theorem indexStores : Obligations.IndexStores := by
  intro rr i m w s hfits a d high words halves
  refine ⟨⟨stores_storeAt hfits _ _, storeI_word_outcomes hfits _ _, storeI_word_outcomes hfits _ _,
    storeI_word_outcomes hfits _ _⟩, fun hc => ?half⟩
  have hhigh : zext (highHalf (s.getD rr)) = high := zext_highHalf_eq _
  refine ⟨completes_storeAt (z := .half) hfits hc d, hhigh ▸ completes_storeAt (z := .half) hfits hc _,
    storeI_half_outcomes hfits hc _ _, storeI_half_outcomes hfits hc _ _, ?_, ?_⟩
  · rw [← hhigh]; exact storeI_half_outcomes hfits hc _ _
  · rw [← hhigh]; exact storeI_half_outcomes hfits hc _ _

end Sys2Proof.Machine
end

section
/-! PROOF. The stack (43 R380 to R389): push and pop of one register, push and pop multiple, LINK and UNLINK. -/

namespace Sys2Proof.Machine

/-! ### One register -/

theorem State.afterPop_eq (t : State) (r : Reg) :
    t.afterPop r = { t with ipend := if r = .reti then t.ipend ||| 0x10#32 else t.ipend } := by
  unfold State.afterPop
  split <;> rfl

theorem State.afterPush_eq (t : State) (r : Reg) :
    t.afterPush r = { t with ipend := if r = .reti then t.ipend &&& ~~~0x10#32 else t.ipend } := by
  unfold State.afterPush
  split <;> rfl

/-- Settles O46: past its checks a pop writes its register, then SP, then IPEND. -/
theorem popOfRegister : Obligations.PopOfRegister := by
  intro r v s hfits hpop he hname hl hacc u
  rw [exec_popReg hpop he hname hl, writeReg_accepts hacc, Res.ok_bind, State.afterPop_eq]
  refine completes_retire s _ 2 hfits ?_ ?_
  · exact (State.setSp_pc _ _).trans (s.withReg_pc r v)
  · exact (State.setSp_mem _ _).trans (s.withReg_mem r v)

/-- The state after a push of a register, as a function of the state after the store. -/
theorem State.setSp_afterPush_withMem (s : State) (a : Word) (r : Reg) (m : Memory) (st : AddrSet) :
    (State.setSp { s with mem := m, stored := st } a).afterPush r =
      { (s.setSp a).afterPush r with mem := m, stored := st } := by
  rw [show State.setSp { s with mem := m, stored := st } a = { s.setSp a with mem := m, stored := st } from
    s.setP_withMem .sp a m st]
  simp only [State.afterPush_eq]

theorem State.setSp_afterPush_withMmr (s : State) (a : Word) (r : Reg) (m : CoreMmr) (w : Word) :
    ((s.withMmr m w).setSp a).afterPush r = ((s.setSp a).afterPush r).withMmr m w := by
  rw [show (s.withMmr m w).setSp a = (s.setSp a).withMmr m w from s.setP_withMmr .sp a m w]
  simp only [State.afterPush_eq]
  cases m <;> rfl

/-- A push past its checks is a store of the register's value (43 R380). -/
theorem exec_pushReg {s : State} {r : Reg} (hpush : r.pushable = true) (he : r ≠ .emudat) (hname : s.mayName r = true) :
    exec (.pushReg r) s = finish s 2 ((memWrite (s.afterRead r) (s.sp - 4#32) .word (s.valueOf r)).bind
      fun t => .ok ((t.setSp (s.sp - 4#32)).afterPush r)) := by
  show execPushReg r s = _
  rw [execPushReg, hpush, if_neg (by decide), if_neg he, checkPrivilege_mayName s r hname, Res.ok_bind,
    readReg_valueOf s r he, Res.ok_bind]

/-- A store of a word completes also where free values were taken before it; `k` treats memory as it finds it. -/
theorem storesWord_drawn {s u : State} {d : Nat} {a v : Word} {k : State → State} (hfits : s.Fits 2) (hpc : u.pc = s.pc)
    (hmem : u.mem = s.mem)
    (hk : ∀ m st, k { s with draws := d, mem := m, stored := st } = { u with mem := m, stored := st })
    (hr : ∀ m w, k (State.withMmr { s with draws := d } m w) = u.withMmr m w) :
    StoresWord (finish s 2 ((memWrite { s with draws := d } a .word v).bind fun t => .ok (k t))) s u 2 a v := by
  refine ⟨fun hc => ?_, fun m hmode ha hv => ?_⟩
  · rw [memWrite_canStore { s with draws := d } a .word v hc]
    show CompletesStoring (retire 2 (k _)) _ _ _ _ _ _
    rw [show k (State.putBytes { s with draws := d } a.toNat .word v) = _ from hk _ _]
    exact completesStoring_retire s u _ 2 _ _ _ hfits rfl hpc (s.putBytes_stored a.toNat .word v)
  · rw [memWrite_mmr { s with draws := d } a v m hmode ha hv]
    show Completes (retire 2 (k _)) _ _ _
    rw [hr]
    exact completes_retire s _ 2 hfits (by simpa using hpc) (by simpa using hmem)

/-- Settles O47: a push is a store, in the state that has taken the free value of CYCLES. -/
theorem pushOfRegister : Obligations.PushOfRegister := by
  intro r s
  refine ⟨fun hfits hpush he hname => ?push, rfl, rfl, fun h => ?unpushable, fun h => ?unpoppable⟩
  case push =>
    obtain ⟨d, hd⟩ : ∃ d, s.afterRead r = { s with draws := d } := ⟨_, s.afterRead_draws r⟩
    rw [exec_pushReg hpush he hname, hd]
    show StoresWord _ s _ 2 _ _
    rw [← State.afterPush_eq]
    refine storesWord_drawn hfits ?_ ?_ (fun m st => ?_) fun m w => ?_
    · rw [State.afterPush_eq]; exact State.setSp_pc _ _
    · rw [State.afterPush_eq]; exact State.setSp_mem _ _
    · exact State.setSp_afterPush_withMem { s with draws := d } _ r m st
    · exact State.setSp_afterPush_withMmr { s with draws := d } _ r m w
  case unpushable => exact if_pos (by rw [h]; rfl)
  case unpoppable => exact if_pos (by rw [h]; rfl)

/-! ### Several words pushed -/

/-- The address of the `j`-th word below `a`. -/
def pushSlot (a : Word) (j : Nat) : Word := a - BitVec.ofNat 32 (4 * (j + 1))

theorem pushSlot_succ (a : Word) (j : Nat) : pushSlot (a - 4#32) j = pushSlot a (j + 1) := by
  unfold pushSlot
  apply BitVec.eq_of_toNat_eq
  simp only [BitVec.toNat_sub, BitVec.toNat_ofNat]
  omega

/-- `t` is `s` with the words `vs` stored below `a`, and nothing else changed. -/
structure State.Pushed (s t : State) (a : Word) (vs : List Word) : Prop where
  frame : t = { s with mem := t.mem, stored := t.stored }
  holds : ∀ j, (h : j < vs.length) → t.Holds (pushSlot a j).toNat 4 vs[j]
  keeps : ∀ x, (∀ j, j < vs.length → x < (pushSlot a j).toNat ∨ (pushSlot a j).toNat + 4 ≤ x) → t.byteAt x = s.byteAt x
  notes : ∀ x, x ∈ t.stored ↔
    x ∈ s.stored ∨ ∃ j, j < vs.length ∧ (pushSlot a j).toNat ≤ x ∧ x < (pushSlot a j).toNat + 4

theorem State.Pushed.nil (s : State) (a : Word) : s.Pushed s a [] :=
  ⟨rfl, fun _ h => absurd h (Nat.not_lt_zero _), fun _ _ => rfl, fun x => by simp⟩

/-- Aligned words at different places do not overlap. -/
theorem pushSlot_apart {a : Word} {j : Nat} (hj : j + 1 < 2 ^ 30) (h0 : (pushSlot a 0).toNat % 4 = 0) :
    (pushSlot a 0).toNat + 4 ≤ (pushSlot a (j + 1)).toNat ∨ (pushSlot a (j + 1)).toNat + 4 ≤ (pushSlot a 0).toNat := by
  unfold pushSlot at *
  simp only [BitVec.toNat_sub, BitVec.toNat_ofNat] at *
  omega

/-- One word stored, then the words below it. -/
theorem State.Pushed.cons {s u t : State} {a v : Word} {vs : List Word} (hlen : vs.length + 1 < 2 ^ 30)
    (halign : (pushSlot a 0).toNat % 4 = 0) (hframe : u = { s with mem := u.mem, stored := u.stored })
    (hst : s.Stored u (pushSlot a 0).toNat 4 v) (h : u.Pushed t (a - 4#32) vs) : s.Pushed t a (v :: vs) := by
  obtain ⟨hv, hkeep, hnote⟩ := hst
  refine ⟨?_, fun j hj => ?_, fun x hx => ?_, fun x => ?_⟩
  · rw [h.frame, hframe]
  · cases j with
    | zero =>
      intro k hk
      rw [h.keeps _ fun j hj => ?_]
      · exact hv k hk
      · rw [pushSlot_succ]
        have := pushSlot_apart (j := j) (by omega) halign
        omega
    | succ j =>
      rw [← pushSlot_succ]
      exact h.holds j (by simpa using hj)
  · rw [h.keeps x fun j hj => ?_]
    · exact hkeep x (hx 0 (by simp))
    · rw [pushSlot_succ]
      exact hx (j + 1) (by simpa using hj)
  · rw [h.notes, hnote]
    simp only [pushSlot_succ, List.length_cons]
    constructor
    · rintro ((hx | hx) | ⟨j, hj, hx⟩)
      · exact .inl hx
      · exact .inr ⟨0, by omega, hx⟩
      · exact .inr ⟨j + 1, by omega, hx⟩
    · rintro (hx | ⟨j, hj, hx⟩)
      · exact .inl (.inl hx)
      · cases j with
        | zero => exact .inl (.inr hx)
        | succ j => exact .inr ⟨j, by omega, hx⟩

theorem pushSlot_zero (a : Word) : pushSlot a 0 = a - 4#32 := rfl

/-- Where every word can be stored, a push of several stores them all (43 R384). -/
theorem pushList_pushed {s : State} {a : Word} {vs : List Word} (hlen : vs.length < 2 ^ 30)
    (h : ∀ j, j < vs.length → s.CanStore (pushSlot a j) 4) :
    ∃ t, pushList s a vs = .ok (a - BitVec.ofNat 32 (4 * vs.length), t) ∧ s.Pushed t a vs := by
  induction vs generalizing s a with
  | nil => exact ⟨s, by simp [pushList], .nil s a⟩
  | cons v vs ih =>
    have h0 := h 0 (by simp)
    have hwrite := memWrite_canStore s (a - 4#32) .word v h0
    obtain ⟨t, ht, hpushed⟩ := ih (s := s.putBytes (a - 4#32).toNat .word v) (a := a - 4#32)
      (by simp only [List.length_cons] at hlen; omega) fun j hj => by
        rw [pushSlot_succ]
        exact h (j + 1) (by simpa using hj)
    refine ⟨t, ?_, hpushed.cons (by simpa using hlen) h0.1 rfl (s.putBytes_stored _ .word v)⟩
    rw [pushList, hwrite, Res.ok_bind, ht]
    congr 2
    simp only [List.length_cons]
    apply BitVec.eq_of_toNat_eq
    simp only [BitVec.toNat_sub, BitVec.toNat_ofNat]
    omega

end Sys2Proof.Machine
end

section
/-! PROOF. Push and pop multiple, LINK and UNLINK (43 R384 to R389). -/

namespace Sys2Proof.Machine

/-! ### Push multiple -/

/-- An instruction that has pushed words, and else has the effects `v`, goes on. -/
theorem State.Pushed.retires {s u v : State} {a : Word} {vs : List Word} {len : Nat} (h : s.Pushed u a vs)
    (hfits : s.Fits len) (hpc : v.pc = s.pc) :
    ∃ t, retire len { v with mem := u.mem, stored := u.stored } = .next t ∧
      { v with mem := t.mem, stored := t.stored }.Advanced t len ∧
      (∀ j, (hj : j < vs.length) → t.Holds (pushSlot a j).toNat 4 vs[j]) ∧
      (∀ x, (∀ j, j < vs.length → x < (pushSlot a j).toNat ∨ (pushSlot a j).toNat + 4 ≤ x) →
        t.byteAt x = s.byteAt x) ∧
      ∀ x, x ∈ t.stored ↔
        x ∈ s.stored ∨ ∃ j, j < vs.length ∧ (pushSlot a j).toNat ≤ x ∧ x < (pushSlot a j).toNat + 4 := by
  obtain ⟨-, hholds, hkeeps, hnotes⟩ := h
  obtain ⟨t, ht, hadv⟩ := retire_fits { v with mem := u.mem, stored := u.stored } len
    (by unfold State.Fits at *; rwa [← hpc] at hfits)
  have hmem : t.mem = u.mem := by rw [hadv.1]
  have hst : t.stored = u.stored := by rw [hadv.1]
  refine ⟨t, ht, by rw [hmem, hst]; exact hadv, fun j hj k hk => ?_, fun x hx => ?_, fun x => ?_⟩
  · rw [State.byteAt, hmem]
    exact hholds j hj k hk
  · rw [State.byteAt, hmem]
    exact hkeeps x hx
  · rw [hst, hnotes]

/-- A push multiple stores each register to its word, then SP falls to the last word (43 R384). -/
theorem pushMultiple_stores {s : State} {rs : List DPReg} (hfits : s.Fits 2) (hlen : rs.length < 2 ^ 30)
    (h : ∀ j, j < rs.length → s.CanStore (pushSlot s.sp j) 4) :
    ∃ t, pushMultiple s rs = .next t ∧
      { s.setSp (s.sp - BitVec.ofNat 32 (4 * rs.length)) with mem := t.mem, stored := t.stored }.Advanced t 2 ∧
      (∀ j, (h : j < rs.length) → t.Holds (pushSlot s.sp j).toNat 4 (s.getDP rs[j])) ∧
      (∀ x, (∀ j, j < rs.length → x < (pushSlot s.sp j).toNat ∨ (pushSlot s.sp j).toNat + 4 ≤ x) →
        t.byteAt x = s.byteAt x) ∧
      ∀ x, x ∈ t.stored ↔
        x ∈ s.stored ∨ ∃ j, j < rs.length ∧ (pushSlot s.sp j).toNat ≤ x ∧ x < (pushSlot s.sp j).toNat + 4 := by
  obtain ⟨u, hu, hpushed⟩ := pushList_pushed (s := s) (a := s.sp) (vs := rs.map s.getDP) (by simpa using hlen)
    (by simpa using h)
  rw [List.length_map] at hu
  obtain ⟨t, ht, hadv, hholds, hkeeps, hnotes⟩ :=
    hpushed.retires hfits (s.setSp_pc (s.sp - BitVec.ofNat 32 (4 * rs.length)))
  simp only [List.length_map, List.getElem_map] at hholds hkeeps hnotes
  refine ⟨t, ?_, hadv, hholds, hkeeps, hnotes⟩
  rw [pushMultiple, hu, Res.ok_bind, hpushed.frame]
  exact (congrArg (retire 2) (s.setP_withMem .sp _ _ _)).trans ht

theorem dregsFrom_length (d : DReg) : (dregsFrom d).length ≤ 8 := by cases d <;> decide

theorem pregsFrom_length (p : PReg) : (pregsFrom p).length ≤ 6 := by cases p <;> decide

/-- The list of the data registers alone. -/
theorem multRegs_nil (ds : List DReg) : multRegs ds [] = ds.map .d := List.append_nil _

theorem numberedOnly_pass {pr : PReg} (h : pr.numbered = true) (k : Result) : numberedOnly pr k = k := if_pos h

/-- Settles O48: the three forms are one push of a list (`pushMultiple` is the model's name). -/
theorem pushMultiple_forms : Obligations.PushMultiple := by
  intro dr pr s hfits slot pushes
  have hd := dregsFrom_length dr
  have hp := pregsFrom_length pr
  have hpush : ∀ (ins : Instr) (rs : List DPReg), exec ins s = pushMultiple s rs → rs.length < 2 ^ 30 → pushes ins rs := by
    intro ins rs hexec hlen hcan
    rw [hexec]
    exact pushMultiple_stores hfits hlen hcan
  refine ⟨hpush _ _ ?_ ?_, fun hpr => ⟨hpush _ _ ?_ ?_, hpush _ _ ?_ ?_⟩⟩
  · rw [← multRegs_nil]; rfl
  · simp; omega
  · exact numberedOnly_pass hpr _
  · simp; omega
  · exact numberedOnly_pass hpr _
  · simp; omega

/-! ### Pop multiple -/

/-- What the loads of a state depend on (20 R137, R146). -/
theorem State.Loads.congr {s t : State} {a v : Word} {n : Nat} (hplat : t.platform = s.platform) (hmem : t.mem = s.mem)
    (hmode : t.mode = s.mode) (hmmr : ∀ m, t.mmrValue m = s.mmrValue m) (htimer : t.timer = s.timer)
    (h : s.Loads a n v) : t.Loads a n v := by
  obtain ⟨ha, hr, hh, hv⟩ | ⟨hm, hn, m, hma, hv, hrun⟩ := h
  · exact .inl ⟨ha, hplat ▸ hr, fun k hk => by rw [State.byteAt, hmem]; exact hh k hk, hv⟩
  · exact .inr ⟨hmode ▸ hm, hn, m, hma, by rw [hmmr, hv], by rwa [htimer]⟩

theorem State.Loads.setDP {s : State} {a v : Word} {n : Nat} (r : DPReg) (x : Word) (h : s.Loads a n v) :
    (s.setDP r x).Loads a n v := by
  cases r with
  | d r => exact h.congr rfl rfl rfl (fun m => by cases m <;> rfl) rfl
  | p r =>
    exact h.congr (s.setP_platform r x) (s.setP_mem r x) (s.setP_mode r x)
      (fun m => by cases m <;> simp [State.mmrValue, State.setDP]) (s.setP_timer r x)

/-- Where every word can be loaded, a pop of several loads them in order (43 R385). -/
theorem popList_loads {s : State} {a : Word} {rs : List DPReg} {vs : List Word} (hlen : rs.length = vs.length)
    (h : ∀ j, (hj : j < vs.length) → s.Loads (a + BitVec.ofNat 32 (4 * j)) 4 vs[j]) :
    popList s a rs = .ok (a + BitVec.ofNat 32 (4 * vs.length), s.withAll (rs.zip vs)) := by
  induction rs generalizing s a vs with
  | nil =>
    cases vs with
    | nil => simp [popList, State.withAll]
    | cons v vs => cases hlen
  | cons r rs ih =>
    cases vs with
    | nil => cases hlen
    | cons v vs =>
      have h0 : s.Loads a 4 v := by
        have := h 0 (Nat.succ_pos _)
        rw [Nat.mul_zero, show a + BitVec.ofNat 32 0 = a from BitVec.add_zero a] at this
        exact this
      have hnext : ∀ j, a + 4#32 + BitVec.ofNat 32 (4 * j) = a + BitVec.ofNat 32 (4 * (j + 1)) := fun j => by
        apply BitVec.eq_of_toNat_eq
        simp only [BitVec.toNat_add, BitVec.toNat_ofNat]
        omega
      rw [popList, memRead_loads s a .word v h0, Res.ok_bind,
        ih (vs := vs) (by simpa using hlen) fun j hj => by
          rw [hnext]
          exact (h (j + 1) (by simpa using hj)).setDP r v]
      rw [hnext]
      rfl

theorem DRegs.set_comm (f : DRegs) {n k : DReg} (h : n ≠ k) (v w : Word) :
    (f.set n v).set k w = (f.set k w).set n v := by
  cases n <;> cases k <;> first | rfl | exact absurd rfl h

/-- SP as the mode binds it, field by field (10 R69). -/
theorem State.setSp_eq (s : State) (v : Word) : s.setSp v =
    { s with usp := if s.mode = .user then v else s.usp, spSup := if s.mode = .user then s.spSup else v } := by
  unfold State.setSp
  cases hm : s.mode <;> rfl

theorem State.setP_comm {s : State} {n k : PReg} (h : n ≠ k) (v w : Word) :
    (s.setP n v).setP k w = (s.setP k w).setP n v := by
  by_cases hn : n = .sp
  · subst hn
    cases k
    case sp => exact absurd rfl h
    all_goals simp only [State.setP, State.setSp_eq]; rfl
  · by_cases hk : k = .sp
    · subst hk
      cases n
      case sp => exact absurd rfl h
      all_goals simp only [State.setP, State.setSp_eq]; rfl
    · cases n <;> cases k <;> first | rfl | exact absurd rfl h | exact absurd rfl hn | exact absurd rfl hk

theorem State.setP_setD_comm (s : State) (n : DReg) (k : PReg) (v w : Word) :
    (s.setD n v).setP k w = (s.setP k w).setD n v := by
  cases k
  case sp => simp only [State.setP, State.setSp_eq]; rfl
  all_goals rfl

/-- Writes of different registers commute. -/
theorem State.setDP_comm {s : State} {r k : DPReg} (h : r ≠ k) (v w : Word) :
    (s.setDP r v).setDP k w = (s.setDP k w).setDP r v := by
  cases r with
  | d n =>
    cases k with
    | d k =>
      show { s with r := (s.r.set n v).set k w } = { s with r := (s.r.set k w).set n v }
      rw [DRegs.set_comm s.r (fun e => h (congrArg _ e))]
    | p k => exact s.setP_setD_comm n k v w
  | p n =>
    cases k with
    | d k => exact (s.setP_setD_comm k n w v).symm
    | p k => exact State.setP_comm (fun e => h (congrArg _ e)) v w

theorem State.withAll_pc_mem (s : State) (l : List (DPReg × Word)) :
    (s.withAll l).pc = s.pc ∧ (s.withAll l).mem = s.mem := by
  unfold State.withAll
  induction l generalizing s with
  | nil => exact ⟨rfl, rfl⟩
  | cons x l ih =>
    obtain ⟨hpc, hmem⟩ := ih (s.setDP x.1 x.2)
    exact ⟨hpc.trans (s.setDP_pc x.1 x.2), hmem.trans (s.setDP_mem x.1 x.2)⟩

/-- Several different registers may be written in either order. -/
theorem State.withAll_reverse {s : State} {rs : List DPReg} (hnodup : rs.Nodup) {vs : List Word}
    (hlen : rs.length = vs.length) : s.withAll (rs.reverse.zip vs.reverse) = s.withAll (rs.zip vs) := by
  have hkeys : ((rs.zip vs).map Prod.fst).Nodup := by rwa [List.map_fst_zip hlen.le]
  have hrev : rs.reverse.zip vs.reverse = (rs.zip vs).reverse := (List.reverse_zipWith hlen).symm
  rw [hrev]
  refine (List.reverse_perm _).foldl_eq' (fun x hx y hy z => ?_) s
  rw [List.mem_reverse] at hx hy
  by_cases he : x.1 = y.1
  · rw [List.inj_on_of_nodup_map hkeys hx hy he]
  · exact State.setDP_comm he _ _

/-- A pop multiple gives each register the word that a push multiple puts there, and SP rises (43 R385). -/
theorem completes_popMultiple {s : State} {rs : List DPReg} {vs : List Word} (hfits : s.Fits 2) (hnodup : rs.Nodup)
    (hlen : rs.length = vs.length)
    (h : ∀ j, (hj : j < vs.length) → s.Loads (s.sp + BitVec.ofNat 32 (4 * (vs.length - 1 - j))) 4 vs[j]) :
    Completes (popMultiple s rs) s ((s.withAll (rs.zip vs)).setSp (s.sp + BitVec.ofNat 32 (4 * vs.length))) 2 := by
  have hpop : popList s s.sp rs.reverse = _ := popList_loads (vs := vs.reverse) (by simpa using hlen) fun j hj => by
    rw [List.length_reverse] at hj
    rw [List.getElem_reverse]
    have := h (vs.length - 1 - j) (by omega)
    rwa [show vs.length - 1 - (vs.length - 1 - j) = j by omega] at this
  obtain ⟨hpc, hmem⟩ := s.withAll_pc_mem (rs.zip vs)
  rw [popMultiple, hpop, Res.ok_bind, State.withAll_reverse hnodup hlen, List.length_reverse]
  exact completes_retire s _ 2 hfits ((State.setSp_pc _ _).trans hpc) ((State.setSp_mem _ _).trans hmem)

/-- No register stands twice in a list of 43 R384. -/
theorem multRegs_nodup (d : DReg) (p : PReg) :
    (multRegs (dregsFrom d) (pregsFrom p)).Nodup ∧ (multRegs (dregsFrom d) []).Nodup ∧
      (multRegs [] (pregsFrom p)).Nodup := by
  cases d <;> cases p <;> decide

/-- Settles O49: the three forms are one pop of a list (`popMultiple` is the model's name). -/
theorem popMultiple_forms : Obligations.PopMultiple := by
  intro dr pr vs s hfits n pops
  obtain ⟨hboth, hd, hp⟩ := multRegs_nodup dr pr
  have hpop : ∀ (ins : Instr) (rs : List DPReg), exec ins s = popMultiple s rs → rs.Nodup → pops ins rs := by
    intro ins rs hexec hnodup hlen hloads
    rw [hexec]
    exact completes_popMultiple hfits hnodup hlen hloads
  rw [multRegs_nil] at hd
  refine ⟨hpop _ _ ?_ hd, fun hpr => ⟨hpop _ _ ?_ hp, hpop _ _ ?_ hboth⟩⟩
  · rw [← multRegs_nil]; rfl
  · exact numberedOnly_pass hpr _
  · exact numberedOnly_pass hpr _

/-! ### Frames -/

/-- LINK pushes RETS and FP, then moves FP and SP (43 R388). -/
theorem exec_link (s : State) (f : BitVec 16) : exec (.link f) s =
    finish s 4 ((pushList s s.sp [s.rets, s.getP .fp]).bind fun x =>
      .ok ((x.2.setP .fp (s.sp - 8#32)).setSp (s.sp - 8#32 - (zext f <<< 2)))) := by
  have h8 : s.sp - 4#32 - 4#32 = s.sp - 8#32 := by bv_omega
  show execLink f s = _
  simp only [execLink, pushList, h8, Res.bind_assoc, Res.ok_bind]

/-- The two words of a frame are eight bytes in a row. -/
theorem frame_slots {s : State} (h8 : s.CanStore (s.sp - 8#32) 4) :
    (s.sp - 4#32).toNat = (s.sp - 8#32).toNat + 4 := by
  have hlt := (h8.2 0 (by decide)).1.lt
  bv_omega

theorem completes_link {s : State} (f : BitVec 16) (hfits : s.Fits 4) (h4 : s.CanStore (s.sp - 4#32) 4)
    (h8 : s.CanStore (s.sp - 8#32) 4) :
    ∃ t, exec (.link f) s = .next t ∧
      { (s.setP .fp (s.sp - 8#32)).setSp (s.sp - BitVec.ofNat 32 (8 + 4 * f.toNat)) with
        mem := t.mem, stored := t.stored }.Advanced t 4 ∧
      t.Holds (s.sp - 4#32).toNat 4 s.rets ∧ t.Holds (s.sp - 8#32).toNat 4 (s.getP .fp) ∧
      (∀ x, x < (s.sp - 8#32).toNat ∨ (s.sp - 8#32).toNat + 8 ≤ x → t.byteAt x = s.byteAt x) ∧
      ∀ x, x ∈ t.stored ↔ x ∈ s.stored ∨ ((s.sp - 8#32).toNat ≤ x ∧ x < (s.sp - 8#32).toNat + 8) := by
  have hslots := frame_slots h8
  have hall : ∀ j, j < [s.rets, s.getP .fp].length → s.CanStore (pushSlot s.sp j) 4 := fun j hj => by
    have hj : j < 2 := hj
    obtain rfl | rfl : j = 0 ∨ j = 1 := by omega
    · exact h4
    · exact h8
  obtain ⟨u, hu, hframe, hholds, hkeeps, hnotes⟩ := pushList_pushed (by simp) hall
  have hsize : s.sp - 8#32 - (zext f <<< 2) = s.sp - BitVec.ofNat 32 (8 + 4 * f.toNat) := by
    rw [shiftLeft_eq_ofNat, toNat_zext (by decide)]
    bv_omega
  obtain ⟨t, ht, hadv, hstored, hkept, hnoted⟩ := State.Pushed.retires ⟨hframe, hholds, hkeeps, hnotes⟩ hfits
    (v := (s.setP .fp (s.sp - 8#32)).setSp (s.sp - BitVec.ofNat 32 (8 + 4 * f.toNat)))
    ((State.setSp_pc _ _).trans (s.setP_pc _ _))
  have hslot0 : pushSlot s.sp 0 = s.sp - 4#32 := rfl
  have hslot1 : pushSlot s.sp 1 = s.sp - 8#32 := rfl
  refine ⟨t, ?_, hadv, hstored 0 (by simp), hstored 1 (by simp), fun x hx => hkept x fun j hj => ?_, fun x => ?_⟩
  · rw [exec_link, hu, Res.ok_bind, hsize, hframe]
    refine Eq.trans (congrArg (retire 4) ?_) ht
    rw [s.setP_withMem]
    exact (s.setP .fp (s.sp - 8#32)).setP_withMem .sp _ _ _
  · have hj : j < 2 := hj
    obtain rfl | rfl : j = 0 ∨ j = 1 := by omega
    · rw [hslot0, hslots]; omega
    · rw [hslot1]; omega
  · rw [hnoted]
    refine or_congr_right ⟨?_, fun hx => ?_⟩
    · rintro ⟨j, hj, hx⟩
      have hj : j < 2 := hj
      obtain rfl | rfl : j = 0 ∨ j = 1 := by omega
      · rw [hslot0, hslots] at hx; omega
      · rw [hslot1] at hx; omega
    · by_cases hlow : x < (s.sp - 8#32).toNat + 4
      · exact ⟨1, by simp, by rw [hslot1]; omega⟩
      · exact ⟨0, by simp, by rw [hslot0, hslots]; omega⟩

/-- Settles O50. -/
theorem frames : Obligations.Frames := by
  refine ⟨fun f s hfits h4 h8 => completes_link f hfits h4 h8, fun v w s hfits hv hw => ?_⟩
  have hexec : exec .unlink s = execUnlink s := rfl
  rw [hexec, execUnlink, memRead_loads s _ .word v hv, Res.ok_bind, memRead_loads s _ .word w hw, Res.ok_bind]
  refine completes_retire s _ 4 hfits ?_ ?_
  · simp
  · simp

end Sys2Proof.Machine
end

section
/-! PROOF. Accesses that trap or stop (20 R133 to R146), and TESTSET (42 R349). -/

namespace Sys2Proof.Machine

/-! ### The first access, a load or a store -/

/-- What the first access answers, load or store alike, is what stops the instruction. -/
theorem exec_access {i : Instr} {s : State} {a : Word} {n : Nat} (h : dataAccess s i = some (a, n)) :
    ∃ z : Size, z.bytes = n ∧
      ((firstStored s i = none ∧ BeginsLoad (exec i s) s a z.bytes) ∨
        ∃ v, firstStored s i = some v ∧ BeginsStore (exec i s) s a z.bytes v) := by
  cases hv : firstStored s i with
  | none =>
    have hload := exec_load i s a n h hv
    obtain ⟨z, rfl⟩ := hload.width
    exact ⟨z, rfl, .inl ⟨rfl, hload⟩⟩
  | some v =>
    have hstore := exec_store i s a v n h hv
    obtain ⟨z, rfl⟩ := hstore.width
    exact ⟨z, rfl, .inr ⟨v, rfl, hstore⟩⟩

/-- An exception that both kinds of access raise is taken in the state before the instruction. -/
theorem exec_access_trap {i : Instr} {s : State} {a : Word} {n : Nat} {c : Cause} (h : dataAccess s i = some (a, n))
    (hr : ∀ z : Size, z.bytes = n → memRead s a z = .trap c)
    (hw : ∀ (z : Size) (d : Nat) (v : Word), z.bytes = n → memWrite { s with draws := d } a z v = .trap c) :
    exec i s = takeException s c := by
  obtain ⟨z, hz, ⟨-, hload⟩ | ⟨v, -, hstore⟩⟩ := exec_access h
  · obtain ⟨-, -, htrap⟩ := hload.stops
    exact htrap c (hr z hz)
  · obtain ⟨d, -, htrap⟩ := hstore.stops
    exact htrap c (hw z d v hz)

/-- So is a refusal that both kinds of access make. -/
theorem exec_access_refused {i : Instr} {s : State} {a : Word} {n : Nat} {r : Refusal}
    (h : dataAccess s i = some (a, n)) (hr : ∀ z : Size, z.bytes = n → memRead s a z = .refused r)
    (hw : ∀ (z : Size) (d : Nat) (v : Word), z.bytes = n → memWrite { s with draws := d } a z v = .refused r) :
    exec i s = .refused r := by
  obtain ⟨z, hz, ⟨-, hload⟩ | ⟨v, -, hstore⟩⟩ := exec_access h
  · obtain ⟨hrefused, -, -⟩ := hload.stops
    exact hrefused r (hr z hz)
  · obtain ⟨d, hrefused, -⟩ := hstore.stops
    exact hrefused r (hw z d v hz)

/-! ### Misaligned accesses -/

theorem inMmrSpace_below {a : Nat} (h : a < 0xFFC00000) : inMmrSpace a = false :=
  decide_eq_false (Nat.not_le.mpr h)

theorem memRead_misaligned (s : State) {a : Word} {z : Size} (hb : a.toNat < 0xFFC00000) (hm : a.toNat % z.bytes ≠ 0) :
    memRead s a z = .trap (.dataMisaligned a) := by
  rw [memRead, inMmrSpace_below hb, if_neg (by decide), if_pos hm]

theorem memWrite_misaligned (s : State) {a : Word} {z : Size} (v : Word) (hb : a.toNat < 0xFFC00000)
    (hm : a.toNat % z.bytes ≠ 0) : memWrite s a z v = .trap (.dataMisaligned a) := by
  rw [memWrite, inMmrSpace_below hb, if_neg (by decide), if_pos hm]

/-- Settles O53: the first access looks at the alignment before everything else below the MMRs. -/
theorem misalignedAccessTraps : Obligations.MisalignedAccessTraps := by
  intro i s a n h hb hm
  have hexec : exec i s = takeException s (.dataMisaligned a) :=
    exec_access_trap h (fun z hz => memRead_misaligned s hb (hz ▸ hm)) fun z d v hz =>
      memWrite_misaligned _ v hb (hz ▸ hm)
  rw [hexec]
  exact takeException_eq s (.dataMisaligned a)

/-! ### Aligned accesses below the MMRs -/

/-- Settles O55: the checks of an aligned access in their order. -/
theorem unreachableAccess : Obligations.UnreachableAccess := by
  intro i s a n h halign hb l1 bytes
  obtain ⟨z, rfl, hcases⟩ := exec_access h
  have hbelow : AlignedBelow a z := ⟨halign, hb⟩
  obtain ⟨hl1, hmissing, hreach⟩ := spanBar_read s.platform a z hbelow
  obtain ⟨wl1, wmissing, wrom, wreach⟩ := spanBar_write s.platform a z hbelow
  obtain ⟨hbarred, hunwritten⟩ := memRead_stops s a z hbelow
  obtain ⟨hnone, hload⟩ | ⟨v, hsome, hstore⟩ := hcases
  · obtain ⟨hrefused, hfault, -⟩ := hload.stops
    refine ⟨fun g => hrefused _ (hbarred _ (hl1 g)), fun g hd => hrefused _ (hbarred _ (hmissing g hd)),
      fun _ _ hs => ?_, fun hd hbyte _ => hfault _ (hunwritten (hreach hd) hbyte), fun _ _ hs => ?_⟩
    · rw [hnone] at hs; cases hs
    · rw [hnone] at hs; cases hs
  · obtain ⟨d, hrefused, -⟩ := hstore.stops
    obtain ⟨wbarred, wfetched⟩ := memWrite_stops { s with draws := d } a z v hbelow
    refine ⟨fun g => hrefused _ (wbarred _ (wl1 g)), fun g hd => hrefused _ (wbarred _ (wmissing g hd)),
      fun hlo hhi _ => hrefused _ (wbarred _ (wrom ⟨hlo, hhi⟩)), fun _ _ hs => ?_,
      fun hd hf _ => hrefused _ (wfetched (wreach hd) hf)⟩
    rw [hsome] at hs; cases hs

/-! ### TESTSET -/

/-- The addresses of SDRAM and of the asynchronous banks (42 R349). -/
theorem isExternal_iff (a : Nat) :
    (regionOf a).isExternal = true ↔ a < 0x08000000 ∨ (0x20000000 ≤ a ∧ a < 0x20400000) := by
  rcases regionOf_cases a with h | h | h | h | h | h | h | h | h | h | h | h | h <;> simp [h, Region.isExternal] <;> omega

theorem Platform.External.ranges {p : Platform} {a : Nat} (h : p.External a) :
    a < 0x08000000 ∨ (0x20000000 ≤ a ∧ a < 0x20400000) := by
  unfold Platform.External Platform.DataRam at h
  omega

/-- Every byte that stands where a load reaches is loaded. -/
theorem State.loads_byte {s : State} {a : Word} {b : Byte} (hr : s.platform.DataReadable a.toNat)
    (h : s.byteAt a.toNat = some b) : s.Loads a 1 (b.setWidth 32) := by
  refine .inl ⟨Nat.mod_one _, fun k hk => ?_, fun k hk => ?_, ?_⟩
  · rwa [Nat.lt_one_iff.mp hk]
  · rw [Nat.lt_one_iff.mp hk, Nat.add_zero, h]
    congr 1
    apply BitVec.eq_of_getLsbD_eq
    intro j hj
    simp [hj, show j < 32 by omega]
  · rw [BitVec.toNat_setWidth]
    exact (Nat.mod_le _ _).trans_lt b.isLt

/-- Settles O51: the pointer, the region, the load, the store, in this order. -/
theorem testSet : Obligations.TestSet := by
  intro pn v s a
  refine ⟨fun h => if_pos h, fun hsp hfp => ?_⟩
  have hpn : ¬ (pn = .sp ∨ pn = .fp) := fun h => h.elim hsp hfp
  have hout : ¬ (regionOf a.toNat).isExternal = true → exec (.testset pn) s = .refused .testsetRegion := fun h =>
    (if_neg hpn).trans (if_neg h)
  have hin : (regionOf a.toNat).isExternal = true → exec (.testset pn) s = finish s 2 ((memRead s a .byte).bind fun x =>
      memWrite { x.2 with astat := x.2.astat.putCc (x.1 == 0#32) } a .byte (x.1 ||| 0x80#32)) := fun h =>
    (if_neg hpn).trans (if_pos h)
  have hbelow (h : a.toNat < 0x20400000) : AlignedBelow a .byte := ⟨Nat.mod_one _, by omega⟩
  have hone (q : Nat → Prop) (h : q a.toNat) : ∀ k, k < Size.byte.bytes → q (a.toNat + k) := fun k hk => by
    rwa [Nat.lt_one_iff.mp hk]
  refine ⟨fun hfits hext hl hc => ?done, fun h => ?outside, fun h hno => ?missing, fun hext hbyte => ?unwritten,
    fun hext hbyte hf => ?code⟩
  case done =>
    rw [hin ((isExternal_iff _).mpr hext.ranges), memRead_loads s a .byte v hl, Res.ok_bind,
      memWrite_canStore { s with astat := s.astat.putCc (v == 0#32) } a .byte _ hc, beq_eq_decide]
    exact completesStoring_retire s (s.withCc (decide (v = 0#32))) _ 2 _ _ _ hfits rfl rfl
      (s.putBytes_stored a.toNat .byte _)
  case outside => exact hout (mt (isExternal_iff _).mp (by omega))
  case missing =>
    have hlt : a.toNat < 0x20400000 := by omega
    obtain ⟨-, hmissing, -⟩ := spanBar_read s.platform a .byte (hbelow hlt)
    have hl1 : ¬ InL1Instr a.toNat := by unfold InL1Instr; omega
    have hunreadable : ¬ ∀ k, k < Size.byte.bytes → s.platform.DataReadable (a.toNat + k) := fun g =>
      (g 0 (by decide)).elim (fun hram => hno ⟨hram, hlt⟩) (by omega)
    rw [hin ((isExternal_iff _).mpr h), (memRead_stops s a .byte (hbelow hlt)).1 _ (hmissing hl1 hunreadable)]
    rfl
  case unwritten =>
    obtain ⟨-, -, hreach⟩ := spanBar_read s.platform a .byte (hbelow hext.2)
    rw [hin ((isExternal_iff _).mpr hext.ranges), (memRead_stops s a .byte (hbelow hext.2)).2
      (hreach (hone _ (.inl hext.1))) fun g => g 0 (by decide) hbyte]
    rfl
  case code =>
    obtain ⟨b, hb⟩ := Option.ne_none_iff_exists'.mp hbyte
    obtain ⟨-, -, -, hreach⟩ := spanBar_write s.platform a .byte (hbelow hext.2)
    have hstop (f : Astat) (w : Word) : memWrite { s with astat := f } a .byte w = .refused .storeToCode :=
      (memWrite_stops { s with astat := f } a .byte w (hbelow hext.2)).2 (hreach (hone _ hext.1))
        fun g => g 0 (by decide) hf
    rw [hin ((isExternal_iff _).mpr hext.ranges), memRead_loads s a .byte _ (s.loads_byte (.inl hext.1) hb), Res.ok_bind]
    exact congrArg (finish s 2) (hstop _ _)

end Sys2Proof.Machine
end

section
/-! PROOF. Accesses to the memory-mapped registers (20 R137), and the free count of the running core timer (60 R461). -/

namespace Sys2Proof.Machine

/-! ### Accesses that trap or are refused -/

theorem inMmrSpace_from {a : Nat} (h : 0xFFC00000 ≤ a) : inMmrSpace a = true := decide_eq_true h

section

variable {s : State} {a : Word} {z : Size}

theorem memRead_user (h : 0xFFC00000 ≤ a.toNat) (hu : s.mode = .user) : memRead s a z = .trap .illegalSupervisor := by
  rw [memRead, inMmrSpace_from h, if_pos rfl, hu]

theorem memWrite_user (v : Word) (h : 0xFFC00000 ≤ a.toNat) (hu : s.mode = .user) :
    memWrite s a z v = .trap .illegalSupervisor := by
  rw [memWrite, inMmrSpace_from h, if_pos rfl, hu]

theorem memRead_mmr (h : 0xFFC00000 ≤ a.toNat) (hm : s.mode ≠ .user) :
    memRead s a z = (mmrTarget a z).bind fun m => .ok (s.readMmr m) := by
  rw [memRead, inMmrSpace_from h, if_pos rfl]
  cases hs : s.mode
  case user => exact absurd hs hm
  all_goals rfl

theorem memWrite_mmrTarget (v : Word) (h : 0xFFC00000 ≤ a.toNat) (hm : s.mode ≠ .user) :
    memWrite s a z v = (mmrTarget a z).bind fun m => s.writeMmr m v := by
  rw [memWrite, inMmrSpace_from h, if_pos rfl]
  cases hs : s.mode
  case user => exact absurd hs hm
  all_goals rfl

theorem mmrTarget_unmodelled (h : ∀ m, a.toNat < mmrAddress m ∨ mmrAddress m + 4 ≤ a.toNat) (z : Size) :
    mmrTarget a z = .refused (.unmodelledMmr (mmrName a.toNat)) := by
  rw [mmrTarget, ofAddr_outside _ h]

/-- The addresses of the registers are those of words. -/
theorem mmrTarget_width {m : CoreMmr} (hlo : mmrAddress m ≤ a.toNat) (hhi : a.toNat < mmrAddress m + 4)
    (h : z.bytes ≠ 4 ∨ a.toNat ≠ mmrAddress m) : mmrTarget a z = .refused .mmrWidth := by
  have hrange := mmrAddress_range m
  rw [mmrTarget, ofAddr_within _ m hlo hhi]
  refine if_neg ?_
  rintro ⟨rfl, halign⟩
  refine h.elim (fun h4 => h4 rfl) fun hne => ?_
  omega

/-- What stops both kinds of access at the choice of the register stops the instruction. -/
theorem exec_mmrTarget_refused {i : Instr} {n : Nat} {r : Refusal} (h : dataAccess s i = some (a, n))
    (ha : 0xFFC00000 ≤ a.toNat) (hm : s.mode ≠ .user) (hr : ∀ z : Size, z.bytes = n → mmrTarget a z = .refused r) :
    exec i s = .refused r :=
  exec_access_refused h (fun z hz => by rw [memRead_mmr ha hm, hr z hz]; rfl) fun z d v hz => by
    rw [memWrite_mmrTarget (s := { s with draws := d }) v ha hm, hr z hz]; rfl

end

/-- An access to a register of the model in User mode, and accesses that reach none (20 R137). -/
theorem exec_mmr_stops {i : Instr} {s : State} {a : Word} {n : Nat} (h : dataAccess s i = some (a, n))
    (ha : 0xFFC00000 ≤ a.toNat) :
    (s.mode = .user → exec i s = .next (s.trapped 0x2E#6 s.pc)) ∧
      (s.mode ≠ .user →
        ((∀ m, a.toNat < mmrAddress m ∨ mmrAddress m + 4 ≤ a.toNat) →
          exec i s = .refused (.unmodelledMmr (mmrName a.toNat))) ∧
        (∀ m, mmrAddress m ≤ a.toNat → a.toNat < mmrAddress m + 4 → n ≠ 4 ∨ a.toNat ≠ mmrAddress m →
          exec i s = .refused .mmrWidth)) := by
  refine ⟨fun hu => ?_, fun hm => ⟨fun hno => ?_, fun m hlo hhi hw => ?_⟩⟩
  · rw [exec_access_trap h (fun z _ => memRead_user ha hu) fun z d v _ =>
      memWrite_user (s := { s with draws := d }) v ha hu]
    exact takeException_user hu
  · exact exec_mmrTarget_refused h ha hm fun z _ => mmrTarget_unmodelled hno z
  · exact exec_mmrTarget_refused h ha hm fun z hz => mmrTarget_width hlo hhi (hz ▸ hw)

/-! ### Stores that a register does not take -/

/-- The values that a register does not take set a bit that it reserves (10 R74, R83); IPEND takes none (60 R431). -/
theorem writeMmr_refused (s : State) {m : CoreMmr} {v : Word} (h : ¬ mmrAccepts m v) :
    s.writeMmr m v = .refused (if m = .ipend then .readOnlyMmr else .reservedBitWrite) := by
  cases m
  case ipend => rfl
  case imask => exact if_pos (mt (above_zero 16 v 0xFFFF#32 (by decide)).mp h)
  case tcntl => exact if_pos (mt (above_zero 4 v 0xF#32 (by decide)).mp h)
  all_goals exact absurd trivial h

theorem exec_store_refused {i : Instr} {s : State} {a v : Word} {m : CoreMmr} (h : dataAccess s i = some (a, 4))
    (ha : a.toNat = mmrAddress m) (hm : s.mode ≠ .user) (hv : firstStored s i = some v) (hno : ¬ mmrAccepts m v) :
    exec i s = .refused (if m = .ipend then .readOnlyMmr else .reservedBitWrite) := by
  have hrange := mmrAddress_range m
  obtain ⟨d, hrefused, -⟩ := BeginsStore.stops (z := .word) (exec_store i s a v 4 h hv)
  refine hrefused _ ?_
  rw [memWrite_mmrTarget (s := { s with draws := d }) v (by omega) hm, mmrTarget_mmrAddress a m ha, Res.ok_bind]
  exact writeMmr_refused _ hno

/-! ### The count of the running timer -/

/-- The state with the core timer stopped at the next free value. -/
def State.timerStopped (s : State) : State :=
  { s with timer := { s.timer with tcntl := 0#32, tcount := Config.freeWord s.draws } }

/-- A state with another core timer and another number of free values taken. -/
def State.retimed (t : State) (T : CoreTimer) (D : Nat) : State := { t with timer := T, draws := D }

section

variable {T : CoreTimer} {D : Nat}

theorem State.retimed_setP (t : State) (n : PReg) (v : Word) : (t.retimed T D).setP n v = (t.setP n v).retimed T D := by
  cases n
  case sp => simp only [State.setP, State.setSp_eq]; rfl
  all_goals rfl

theorem State.retimed_setDP (t : State) (n : DPReg) (v : Word) :
    (t.retimed T D).setDP n v = (t.setDP n v).retimed T D := by
  cases n with
  | d n => rfl
  | p n => exact t.retimed_setP n v

theorem State.retimed_getP (t : State) (n : PReg) : (t.retimed T D).getP n = t.getP n := by cases n <;> rfl

theorem State.retimed_loopCheck (t : State) (a seq : Word) :
    (t.retimed T D).loopCheck a seq = (t.loopCheck a seq).retimed T D := by
  have h1 : (t.retimed T D).loop1 = t.loop1 := rfl
  have h0 : (t.retimed T D).loop0 = t.loop0 := rfl
  simp only [State.loopCheck, h1, h0]
  cases t.loop1.check a with
  | mk l1 top1 =>
    cases top1 with
    | some top => rfl
    | none => cases t.loop0.check a with
      | mk l0 top0 => cases top0 <;> rfl

/-- The end of an instruction looks at neither. -/
theorem retire_retimed {len : Nat} {t u : State} (h : retire len t = .next u) :
    retire len (t.retimed T D) = .next (u.retimed T D) := by
  unfold retire at *
  have hpc : (t.retimed T D).pc = t.pc := rfl
  rw [hpc, t.retimed_loopCheck]
  split_ifs at h ⊢
  cases h
  rfl

/-- The result `x` is the result `y`, which raises no exception, with another timer where it is a state. -/
def Retimes (T : CoreTimer) (D : Nat) (y x : Res State) : Prop :=
  match y with
  | .ok t => x = .ok (t.retimed T D)
  | .trap _ => False
  | .fault _ | .refused _ => True

/-- A write of a register looks at neither (41 R262, R263). -/
theorem retimes_writeReg (t : State) (r : Reg) (v : Word) :
    Retimes T D (writeReg t r v) (writeReg (t.retimed T D) r v) := by
  have hloop : ∀ k l, Retimes T D (writeLoop t k l) (writeLoop (t.retimed T D) k l) := by
    intro k l
    have hend : (t.retimed T D).atEndOf k = t.atEndOf k := by cases k <;> rfl
    rw [writeLoop, writeLoop, hend]
    cases t.atEndOf k with
    | true => trivial
    | false => cases k <;> exact rfl
  have hget : ∀ k, (t.retimed T D).getLoop k = t.getLoop k := by intro k; cases k <;> rfl
  cases r
  case gen g =>
    cases g with
    | p n => exact congrArg Res.ok (t.retimed_setP n v)
    | _ => exact rfl
  case astat =>
    rw [writeReg, writeReg, Astat.ofWord_eq]
    split_ifs <;> trivial
  case syscfg =>
    rw [writeReg, writeReg]
    cases syscfgAccepts v with
    | true => exact rfl
    | false => trivial
  case lc k => rw [writeReg, writeReg, hget]; exact hloop k _
  case lt k | lb k =>
    rw [writeReg, writeReg, hget, evenLoopAddress, evenLoopAddress]
    cases bit v 0 with
    | true => trivial
    | false => exact hloop k _
  case seqstat | emudat => trivial
  all_goals exact rfl

theorem Retimes.bind {y x : Res State} {k l : State → Res State} (h : Retimes T D y x)
    (hk : ∀ t, Retimes T D (k t) (l (t.retimed T D))) : Retimes T D (y.bind k) (x.bind l) := by
  cases y with
  | ok t =>
    have h : x = .ok (t.retimed T D) := h
    rw [h]
    exact hk t
  | trap c => exact h.elim
  | fault f => trivial
  | refused r => trivial

theorem finish_retimes {s s' u : State} {len : Nat} {y x : Res State} (h : Retimes T D y x)
    (hy : finish s len y = .next u) : finish s' len x = .next (u.retimed T D) := by
  cases y with
  | ok t =>
    have h : x = .ok (t.retimed T D) := h
    rw [h]
    exact retire_retimed hy
  | trap c => exact h.elim
  | fault f => cases hy
  | refused r => cases hy

end

/-- A load of the running count, and of the count stopped at the same value (60 R461). -/
theorem memRead_tcount {s : State} {a : Word} (ha : a.toNat = mmrAddress .tcount) (hm : s.mode ≠ .user)
    (hrun : s.timer.runs = true) :
    memRead s a .word = .ok (Config.freeWord s.draws, s.timerStopped.retimed s.timer (s.draws + 1)) ∧
      memRead s.timerStopped a .word = .ok (Config.freeWord s.draws, s.timerStopped) := by
  have hlo : 0xFFC00000 ≤ a.toNat := by rw [ha]; decide
  have hm' : s.timerStopped.mode ≠ .user := hm
  rw [memRead_mmr hlo hm, memRead_mmr hlo hm', mmrTarget_mmrAddress a _ ha, Res.ok_bind, Res.ok_bind]
  have hstopped : s.timerStopped.timer.runs = false := by simp [CoreTimer.runs, bit, State.timerStopped]
  exact ⟨congrArg Res.ok (if_pos hrun), congrArg Res.ok (if_neg (by rw [hstopped]; decide))⟩

/-- The word after the count holds no register. -/
theorem memRead_after_tcount {t : State} {a : Word} (ha : a.toNat = mmrAddress .tcount) (hm : t.mode ≠ .user) :
    memRead t (a + 4#32) .word = .refused (.unmodelledMmr (mmrName (a + 4#32).toNat)) := by
  have hnext : (a + 4#32).toNat = 0xFFE03010 := by
    rw [BitVec.toNat_add, ha]; rfl
  have hnone : CoreMmr.ofAddr (a + 4#32).toNat = none := by rw [hnext]; decide
  rw [memRead_mmr (by omega) hm, mmrTarget, hnone]
  rfl

section

variable {s u : State} {a b : Word} {len : Nat}

/-- An instruction that begins with a load of the count: what follows looks neither at the timer nor at the free values
taken. -/
theorem access_retimed {k l : Word × State → Res State} (ha : a.toNat = mmrAddress .tcount) (hm : s.mode ≠ .user)
    (hrun : s.timer.runs = true) (hb : b = a)
    (hk : ∀ v, Retimes s.timer (s.draws + 1) (k (v, s.timerStopped))
      (l (v, s.timerStopped.retimed s.timer (s.draws + 1))))
    (hu : finish s.timerStopped len ((memRead s.timerStopped b .word).bind k) = .next u) :
    finish s len ((memRead s a .word).bind l) = .next (u.retimed s.timer (s.draws + 1)) := by
  obtain ⟨hrunning, hstopped⟩ := memRead_tcount ha hm hrun
  rw [hb, hstopped, Res.ok_bind] at hu
  rw [hrunning, Res.ok_bind]
  exact finish_retimes (hk _) hu

theorem load_retimed {k l : Word → State → State} (ha : a.toNat = mmrAddress .tcount) (hm : s.mode ≠ .user)
    (hrun : s.timer.runs = true) (hb : b = a)
    (hk : ∀ v t, l v (State.retimed t s.timer (s.draws + 1)) = (k v t).retimed s.timer (s.draws + 1))
    (hu : load s.timerStopped len b .word k = .next u) :
    load s len a .word l = .next (u.retimed s.timer (s.draws + 1)) :=
  access_retimed (k := fun x => .ok (k x.1 x.2)) (l := fun x => .ok (l x.1 x.2)) ha hm hrun hb
    (fun v => congrArg Res.ok (hk v s.timerStopped)) hu

theorem State.timerStopped_getP (s : State) (pp : PReg) : s.timerStopped.getP pp = s.getP pp := by cases pp <;> rfl

/-! The shared loads, each at its address. -/

theorem loadD_retimed {pp : PReg} {m : Word} {ext : Word → Word} {rr : DReg}
    (ha : (s.getP pp).toNat = mmrAddress .tcount) (hm : s.mode ≠ .user) (hrun : s.timer.runs = true)
    (hu : loadD s.timerStopped pp m .word ext rr = .next u) :
    loadD s pp m .word ext rr = .next (u.retimed s.timer (s.draws + 1)) :=
  load_retimed ha hm hrun (s.timerStopped_getP pp)
    (fun v t => by rw [s.timerStopped_getP]; exact State.retimed_setP (t.setD rr (ext v)) _ _) hu

theorem loadPMoving_retimed {pr pp : PReg} {m : Word} (ha : (s.getP pp).toNat = mmrAddress .tcount)
    (hm : s.mode ≠ .user) (hrun : s.timer.runs = true) (hu : loadPMoving s.timerStopped pp m pr = .next u) :
    loadPMoving s pp m pr = .next (u.retimed s.timer (s.draws + 1)) := by
  unfold loadPMoving at *
  split_ifs at hu ⊢
  exact load_retimed ha hm hrun (s.timerStopped_getP pp)
    (fun v t => by rw [s.timerStopped_getP, State.retimed_setP, State.retimed_setP]) hu

theorem loadPmodWhole_retimed {pp pi : PReg} {ext : Word → Word} {rr : DReg}
    (ha : (s.getP pp).toNat = mmrAddress .tcount) (hm : s.mode ≠ .user) (hrun : s.timer.runs = true)
    (hu : loadPmodWhole s.timerStopped pp pi .word ext rr = .next u) :
    loadPmodWhole s pp pi .word ext rr = .next (u.retimed s.timer (s.draws + 1)) := by
  unfold loadPmodWhole at *
  split_ifs at hu ⊢ with hne
  refine load_retimed ha hm hrun (s.timerStopped_getP pp) (fun v t => ?_) hu
  rw [movePointer_other hne, movePointer_other hne, s.timerStopped_getP, s.timerStopped_getP]
  exact State.retimed_setP (t.setD rr (ext v)) _ _

theorem loadDAt_retimed {ext : Word → Word} {rr : DReg} (ha : a.toNat = mmrAddress .tcount) (hm : s.mode ≠ .user)
    (hrun : s.timer.runs = true) (hb : b = a) (hu : loadDAt s.timerStopped len b .word ext rr = .next u) :
    loadDAt s len a .word ext rr = .next (u.retimed s.timer (s.draws + 1)) :=
  load_retimed ha hm hrun hb (fun _ _ => rfl) hu

theorem loadPAt_retimed {pr : PReg} (ha : a.toNat = mmrAddress .tcount) (hm : s.mode ≠ .user)
    (hrun : s.timer.runs = true) (hb : b = a) (hu : loadPAt s.timerStopped len b pr = .next u) :
    loadPAt s len a pr = .next (u.retimed s.timer (s.draws + 1)) :=
  load_retimed ha hm hrun hb (fun v t => State.retimed_setP t pr v) hu


theorem circAdd_no_trap (s : State) (i : Quad) (z : Int) (c : Cause) : circAdd s i z ≠ .trap c := by
  unfold circAdd
  dsimp only
  split_ifs <;> nofun

theorem loadI_retimed {i : Quad} {mv : Option Int} {put : Word → Word → Word} {rr : DReg}
    (ha : (s.i.get i).toNat = mmrAddress .tcount) (hm : s.mode ≠ .user) (hrun : s.timer.runs = true)
    (hu : loadI s.timerStopped i mv .word put rr = .next u) :
    loadI s i mv .word put rr = .next (u.retimed s.timer (s.draws + 1)) := by
  refine access_retimed ha hm hrun rfl (fun v => ?_) hu
  cases mv with
  | none => exact rfl
  | some z =>
    show Retimes _ _ ((circAdd s i z).bind fun w => .ok ((s.timerStopped.setD rr _).setI i w)) ((circAdd s i z).bind _)
    cases hw : circAdd s i z with
    | ok w => exact rfl
    | trap c => exact absurd hw (circAdd_no_trap s i z c)
    | fault f | refused r => trivial

theorem setDP_mode_ne {t : State} {r : DPReg} {v : Word} (h : t.mode ≠ .user) : (t.setDP r v).mode ≠ .user := by
  cases r with
  | d n => exact h
  | p n => exact (State.setP_mode t n v).trans_ne h

/-- A pop of several that begins at the count and has more than one register is refused at the second. -/
theorem popMultiple_retimed {rs : List DPReg} (hrs : rs ≠ []) (ha : s.sp.toNat = mmrAddress .tcount)
    (hm : s.mode ≠ .user) (hrun : s.timer.runs = true) (hu : popMultiple s.timerStopped rs = .next u) :
    popMultiple s rs = .next (u.retimed s.timer (s.draws + 1)) := by
  unfold popMultiple at *
  cases hrev : rs.reverse with
  | nil => exact absurd (List.reverse_eq_nil_iff.mp hrev) hrs
  | cons r rest =>
    rw [hrev, popList, Res.bind_assoc] at hu
    rw [popList, Res.bind_assoc]
    refine access_retimed ha hm hrun rfl (fun v => ?_) hu
    dsimp only
    cases rest with
    | nil =>
      rw [State.retimed_setDP]
      exact congrArg Res.ok (State.retimed_setP _ .sp _)
    | cons r₂ rest₂ =>
      have hnext : memRead (s.timerStopped.setDP r v) (s.sp + 4#32) .word = .refused _ :=
        memRead_after_tcount ha (setDP_mode_ne hm)
      rw [popList, Res.bind_assoc]
      change Retimes _ _ ((memRead _ (s.sp + 4#32) .word).bind _) _
      rw [hnext]
      trivial

/-- A pop past its checks. -/
theorem popReg_retimed {r : Reg} (hpop : r.poppable = true) (he : r ≠ .emudat) (hname : s.mayName r = true)
    (ha : s.sp.toNat = mmrAddress .tcount) (hm : s.mode ≠ .user) (hrun : s.timer.runs = true)
    (hu : execPopReg r s.timerStopped = .next u) : execPopReg r s = .next (u.retimed s.timer (s.draws + 1)) := by
  have hname' : s.timerStopped.mayName r = true := hname
  unfold execPopReg at *
  rw [hpop, if_neg (by decide), if_neg he, checkPrivilege_mayName _ r hname', Res.ok_bind] at hu
  rw [hpop, if_neg (by decide), if_neg he, checkPrivilege_mayName s r hname, Res.ok_bind]
  refine access_retimed ha hm hrun rfl (fun v => (retimes_writeReg _ r v).bind fun t => ?_) hu
  refine congrArg Res.ok ?_
  rw [State.afterPop_eq, State.afterPop_eq, show State.setSp _ _ = _ from State.retimed_setP t .sp _]
  rfl

/-- UNLINK at the count is refused at its second word. -/
theorem unlink_retimed (ha : (s.getP .fp).toNat = mmrAddress .tcount) (hm : s.mode ≠ .user)
    (hrun : s.timer.runs = true) (hu : execUnlink s.timerStopped = .next u) :
    execUnlink s = .next (u.retimed s.timer (s.draws + 1)) := by
  refine access_retimed ha hm hrun rfl (fun v => ?_) hu
  change Retimes _ _ ((memRead s.timerStopped (s.getP .fp + 4#32) .word).bind _) _
  rw [memRead_after_tcount (t := s.timerStopped) ha hm]
  trivial

end

/-- Every instruction that begins with a load of the running count. -/
theorem exec_retimed {i : Instr} {s u : State} {a : Word} (h : dataAccess s i = some (a, 4))
    (ha : a.toNat = mmrAddress .tcount) (hm : s.mode ≠ .user) (hrun : s.timer.runs = true) (hs : firstStored s i = none)
    (hu : exec i s.timerStopped = .next u) : exec i s = .next (u.retimed s.timer (s.draws + 1)) := by
  have hget := s.timerStopped_getP
  cases i
  case ldDInc rr pp | ldDDec rr pp | ldDInd rr pp =>
    cases h
    exact loadD_retimed ha hm hrun hu
  case ldPInc pr pp | ldPDec pr pp =>
    obtain ⟨-, h⟩ := Option.ite_none_left_eq_some.mp h
    cases h
    exact loadPMoving_retimed ha hm hrun hu
  case ldPInd pr pp =>
    cases h
    exact loadPAt_retimed ha hm hrun (hget pp) hu
  case ldPmod rr pp pi =>
    obtain ⟨-, h⟩ := Option.ite_none_left_eq_some.mp h
    cases h
    exact loadPmodWhole_retimed ha hm hrun hu
  case ldIInc rr i | ldIDec rr i | ldIInd rr i | ldIMod rr i m =>
    cases h
    exact loadI_retimed ha hm hrun hu
  case ldDOff rr pp o | ldDIdx rr pp o =>
    cases h
    exact loadDAt_retimed ha hm hrun (congrArg (· + _) (hget pp)) hu
  case ldDFp rr o =>
    cases h
    exact loadDAt_retimed ha hm hrun rfl hu
  case ldPOff pr pp o | ldPIdx pr pp o =>
    cases h
    exact loadPAt_retimed ha hm hrun (congrArg (· + _) (hget pp)) hu
  case ldPFp pr o =>
    cases h
    exact loadPAt_retimed ha hm hrun rfl hu
  case popReg r =>
    obtain ⟨⟨hpop, he, hname⟩, h⟩ := Option.ite_none_right_eq_some.mp h
    cases h
    exact popReg_retimed hpop he hname ha hm hrun hu
  case popMultDP dr pr =>
    obtain ⟨hpr, h⟩ := Option.ite_none_right_eq_some.mp h
    cases h
    obtain ⟨l, hl⟩ := dregsFrom_cons dr
    have hforms := fun t : State => numberedOnly_pass hpr (popMultiple t (multRegs (dregsFrom dr) (pregsFrom pr)))
    exact (hforms s).trans (popMultiple_retimed (by simp [multRegs, hl]) ha hm hrun ((hforms _).symm.trans hu))
  case popMultP pr =>
    obtain ⟨hpr, h⟩ := Option.ite_none_right_eq_some.mp h
    cases h
    obtain ⟨l, hl⟩ := pregsFrom_cons pr hpr
    have hforms := fun t : State => numberedOnly_pass hpr (popMultiple t (multRegs [] (pregsFrom pr)))
    exact (hforms s).trans (popMultiple_retimed (by simp [multRegs, hl]) ha hm hrun ((hforms _).symm.trans hu))
  case popMultD dr =>
    cases h
    obtain ⟨l, hl⟩ := dregsFrom_cons dr
    exact popMultiple_retimed (by simp [multRegs, hl]) ha hm hrun hu
  case unlink =>
    cases h
    exact unlink_retimed ha hm hrun hu
  case ldPmodHalfZ rr pp pi | ldPmodHalfX rr pp pi => cases (Option.ite_none_left_eq_some.mp h).2
  -- What is left stores first, accesses no whole word, or accesses nothing.
  all_goals first
    | (cases hs; done)
    | cases h

/-- Settles O54: accesses that stop, by how the choice of the register stops; stores by the register; loads of the count
by the result of the same load with the timer stopped. -/
theorem mmrAccessStops : Obligations.MmrAccessStops := by
  refine ⟨fun i s a n h ha => exec_mmr_stops h ha, fun i s a m h ha hm => ⟨fun v hv => ⟨?ipend, ?bits⟩, ?count⟩, ?load⟩
  case ipend =>
    rintro rfl
    exact exec_store_refused h ha hm hv id
  case bits =>
    intro hne hno
    exact (exec_store_refused h ha hm hv hno).trans (congrArg _ (if_neg hne))
  case count =>
    rintro rfl hrun hs u hu
    exact exec_retimed h ha hm hrun hs hu
  case load =>
    intro rr pp s hm ha hrun hfits
    have hload : exec (.ldDInd rr pp) s =
        retire 2 { s.setD rr (Config.freeWord s.draws) with draws := s.draws + 1 } := by
      show finish s 2 ((memRead s (s.getP pp) .word).bind _) = _
      rw [(memRead_tcount ha hm hrun).1]
      exact congrArg (retire 2) (State.setD_setP_zero { s with draws := s.draws + 1 } rr _ pp)
    rw [hload]
    exact completes_retire s _ 2 hfits rfl rfl

end Sys2Proof.Machine
end
